-- ==== Sys2Proof/Word.lean ====
section
/-! DEFINITION. The word type of the machine. -/

namespace Sys2Proof

/-- A sample, ring entry, running sum, noise-reduction scalar, command word or host-port word: 32 bits (R9 with
`W = 32`, R60, R80). Signal values are read as two's complement. -/
abbrev Word := BitVec 32

end Sys2Proof
end

