-- ==== Sys2Proof/Syntax.lean ====
section
/-! DEFINITION. The command set: one constructor per row of spec/opcode_table.json (R82). -/

namespace Sys2Proof

/-- A command with its operands as the naturals R83 gives them ("every operand field is an unsigned integer").
`WellFormed.lean` says which operands fit their fields. -/
inductive Instr where
  /-- `INIT reset`, R120. -/
  | init (reset : Nat)
  /-- `PROC count`, R230. -/
  | proc (count : Nat)
  /-- `SETRVB depth, delayMs`, R211. -/
  | setrvb (depth delayMs : Nat)
  /-- `SETBASS depth, rangeHz`, R212. -/
  | setbass (depth rangeHz : Nat)
  /-- `SETSUR depth, delayMs`, R214. -/
  | setsur (depth delayMs : Nat)
  /-- `SETCFG flags`, R216. -/
  | setcfg (flags : Nat)
  /-- `SETRATE rate`, R218. -/
  | setrate (rate : Nat)
deriving DecidableEq, Repr

/-- The mnemonic of a command (R82). -/
def Instr.mnemonic : Instr → String
  | .init _ => "INIT"
  | .proc _ => "PROC"
  | .setrvb _ _ => "SETRVB"
  | .setbass _ _ => "SETBASS"
  | .setsur _ _ => "SETSUR"
  | .setcfg _ => "SETCFG"
  | .setrate _ => "SETRATE"

/-- The three pseudo-instructions of R87: other spellings of core commands. -/
inductive Pseudo where
  | resetdsp
  | reinit
  | disable
deriving DecidableEq, Repr

/-- R87: `RESETDSP` is `INIT 1`, `REINIT` is `INIT 0`, `DISABLE` is `SETCFG 0`. -/
def Pseudo.expand : Pseudo → Instr
  | .resetdsp => .init 1
  | .reinit => .init 0
  | .disable => .setcfg 0

end Sys2Proof
end

