-- ==== Sys2Proof/WellFormed.lean ====
section
/-! DEFINITION. When a command's operands fit their fields (R81, R83; R86: "an operand that does not fit its field
is an assembler error"). -/

namespace Sys2Proof

/-- Each operand lies in the value range of its field (R83). -/
def Instr.wellFormed : Instr → Bool
  | .init reset => reset < 2
  | .proc count => count < 65536
  | .setrvb depth delayMs => depth < 256 && delayMs < 65536
  | .setbass depth rangeHz => depth < 256 && rangeHz < 65536
  | .setsur depth delayMs => depth < 256 && delayMs < 65536
  | .setcfg flags => flags < 16
  | .setrate rate => rate < 1048576

end Sys2Proof
end

