-- ==== Sys2Proof/Decode.lean ====
section
/-! DEFINITION. The opcode map, the decoder and the encoder of 30_encoding.md. -/

namespace Sys2Proof

/-- R13: `w[hi:lo]`, the unsigned integer formed by bits `hi` down to `lo` of `w`. -/
def bits (w : Word) (hi lo : Nat) : Nat := w.toNat / 2 ^ lo % 2 ^ (hi + 1 - lo)

/-- Why a word is no command (R84). -/
inductive Illegal where
  /-- Opcode 0 or 8 to 15. -/
  | unassignedOpcode (opcode : Nat)
  /-- A defined opcode with a 1 in a reserved bit of its format. -/
  | reservedBitSet (opcode : Nat)
deriving DecidableEq, Repr

/-- `i` where the reserved field is 0, else the word is illegal (R80: "every bit that is not in an operand field is
reserved and must be 0"). -/
def whenReservedZero (opcode reserved : Nat) (i : Instr) : Except Illegal Instr :=
  if reserved = 0 then .ok i else .error (.reservedBitSet opcode)

/-- The decoder by the five formats of R81, total on every 32-bit word (R85 steps 2 to 4). -/
def decode (w : Word) : Except Illegal Instr :=
  match bits w 31 28 with
  | 1 => whenReservedZero 1 (bits w 27 1) (.init (bits w 0 0))
  | 2 => whenReservedZero 2 (bits w 27 16) (.proc (bits w 15 0))
  | 3 => whenReservedZero 3 (bits w 27 24) (.setrvb (bits w 23 16) (bits w 15 0))
  | 4 => whenReservedZero 4 (bits w 27 24) (.setbass (bits w 23 16) (bits w 15 0))
  | 5 => whenReservedZero 5 (bits w 27 24) (.setsur (bits w 23 16) (bits w 15 0))
  | 6 => whenReservedZero 6 (bits w 27 4) (.setcfg (bits w 3 0))
  | 7 => whenReservedZero 7 (bits w 27 20) (.setrate (bits w 19 0))
  | op => .error (.unassignedOpcode op)

/-- The encoder by the expressions of R86. Operands are taken as they stand; R86's assembler never encodes an operand
that does not fit its field (`assembleInstr`). -/
def encode : Instr → Word
  | .init reset => BitVec.ofNat 32 (0x10000000 ||| reset)
  | .proc count => BitVec.ofNat 32 (0x20000000 ||| count)
  | .setrvb depth delayMs => BitVec.ofNat 32 (0x30000000 ||| (depth <<< 16) ||| delayMs)
  | .setbass depth rangeHz => BitVec.ofNat 32 (0x40000000 ||| (depth <<< 16) ||| rangeHz)
  | .setsur depth delayMs => BitVec.ofNat 32 (0x50000000 ||| (depth <<< 16) ||| delayMs)
  | .setcfg flags => BitVec.ofNat 32 (0x60000000 ||| flags)
  | .setrate rate => BitVec.ofNat 32 (0x70000000 ||| rate)

/-- R86: "an operand that does not fit its field is an assembler error; the assembler never truncates". -/
def assembleInstr (i : Instr) : Option Word := if i.wellFormed then some (encode i) else none

/-- One row of the opcode map R82: a word `w` is the row's command exactly when `w &&& mask = pattern`. -/
structure OpcodeRow where
  mnemonic : String
  pattern : Word
  mask : Word
deriving DecidableEq, Repr

/-- The opcode map of R82, row by row. -/
def opcodeMap : List OpcodeRow :=
  [ { mnemonic := "INIT", pattern := 0x10000000, mask := 0xFFFFFFFE },
    { mnemonic := "PROC", pattern := 0x20000000, mask := 0xFFFF0000 },
    { mnemonic := "SETRVB", pattern := 0x30000000, mask := 0xFF000000 },
    { mnemonic := "SETBASS", pattern := 0x40000000, mask := 0xFF000000 },
    { mnemonic := "SETSUR", pattern := 0x50000000, mask := 0xFF000000 },
    { mnemonic := "SETCFG", pattern := 0x60000000, mask := 0xFFFFFFF0 },
    { mnemonic := "SETRATE", pattern := 0x70000000, mask := 0xFFF00000 } ]

/-- `w` matches the row (R82). -/
def OpcodeRow.accepts (r : OpcodeRow) (w : Word) : Bool := w &&& r.mask == r.pattern

/-- The instruction the decoder reads from a command whose low `nbits` bits are those of `w` and whose other bits
are 0. A command is one 32-bit word (R80), so no byte order is involved. -/
def decodeTableWord (nbits w : Nat) : Option Instr :=
  match decode (BitVec.ofNat 32 (w % 2 ^ nbits)) with
  | .ok i => some i
  | .error _ => none

end Sys2Proof
end

