-- ==== Sys2Proof/Config.lean ====
section
/-! DEFINITION. The implementation parameters of 00_scope.md R7, fixed for one instance of the hardware, and the free
value that stands for buffer words nothing has written. The values of the default instance are in
Machine/Parameters.lean. -/

namespace Sys2Proof

/-- The two sample buffers (R36). -/
inductive Buffer where
  | mix
  | dry
deriving DecidableEq, Repr

/-- The implementation parameters (R7) and the two open functions of 92_eei_decisions.md. `W` is 32 throughout
(R7: the rules are written for `W = 32` only); `BASS_RING_CAP` is derived (`bassRingCap`). -/
structure Config where
  /-- `BLOCK_CAPACITY`, stereo pairs. -/
  blockCapacity : Nat
  /-- `MAX_REVERB_CAPACITY`. -/
  maxReverb : Nat
  /-- `MAX_REVERB2_CAPACITY`. -/
  maxReverb2 : Nat
  /-- `MAX_REVERB3_CAPACITY`. -/
  maxReverb3 : Nat
  /-- `MAX_REVERB4_CAPACITY`. -/
  maxReverb4 : Nat
  /-- `MAX_SURROUND_CAPACITY`. -/
  maxSurround : Nat
  /-- `MAX_BASS_WINDOW`. -/
  maxBassWindow : Nat
  /-- `DOLBY_ROUND`. -/
  dolbyRound : Nat
  /-- `DOLBY_SHIFT`. -/
  dolbyShift : Nat
  /-- `DOLBY_LO_SHIFT`. -/
  dolbyLoShift : Nat
  /-- `DEF_RVB_DEPTH`. -/
  defRvbDepth : Nat
  /-- `DEF_RVB_DELAY`. -/
  defRvbDelay : Nat
  /-- `DEF_BASS_DEPTH`. -/
  defBassDepth : Nat
  /-- `DEF_BASS_RANGE`. -/
  defBassRange : Nat
  /-- `DEF_SUR_DEPTH`. -/
  defSurDepth : Nat
  /-- `DEF_SUR_DELAY`. -/
  defSurDelay : Nat
  /-- `DEF_RATE`. -/
  defRate : Nat
  /-- `BASSRANGE` (R213). -/
  bassRange : Nat → Nat
  /-- `SURCURVE` (R132). -/
  surCurve : Nat → Nat

/-- DESIGN CHOICE (log 2). The word that index `index` of `buffer` holds after the `epoch`-th hard reset until something
writes it. R36: the contents "are unspecified"; R78, U3: a free value. No body: nothing can be proved about it. -/
opaque Config.unwrittenWord (epoch : Nat) (buffer : Buffer) (index : Nat) : Word

end Sys2Proof
end

