-- ==== Sys2Proof/Machine/Parameters.lean ====
section
/-! DEFINITION. The default instance of the implementation parameters (R7), and the two open functions. -/

namespace Sys2Proof.Machine

/-- `MAX_SAMPLE_RATE` (R7): "rate used only to derive the defaults below". -/
def maxSampleRate : Nat := 50000

/-- `SURCURVE(d)`, the default table of R132. -/
def surCurve (d : Nat) : Nat :=
  if d < 8 then 32 / 2 ^ d + 32 else if d < 16 then 8 + (d - 8) * 7 else 64

/-- `BASSRANGE(r)`, the default function of R213: an offset, the spec's clamp, a subtraction. -/
def bassRange (r : Nat) : Nat :=
  let q := r / 5
  let q2 := if q > 5 then q - 5 else 0
  let q3 := min q2 5
  21 - q3

/-- The parameters at the defaults of R7's table (log 6). -/
def config : Config where
  blockCapacity := 512
  maxReverb := maxSampleRate * 200 / 1000
  maxReverb2 := maxSampleRate * 200 / 1000 * 13 / 17
  maxReverb3 := maxSampleRate * 200 / 1000 * 7 / 13
  maxReverb4 := maxSampleRate * 200 / 1000 * 7 / 19
  maxSurround := maxSampleRate * 50 / 1000
  maxBassWindow := 64
  dolbyRound := 31
  dolbyShift := 7
  dolbyLoShift := 6
  defRvbDepth := 1
  defRvbDelay := 100
  defBassDepth := 6
  defBassRange := 14
  defSurDepth := 12
  defSurDelay := 20
  defRate := 44100
  bassRange := bassRange
  surCurve := surCurve

end Sys2Proof.Machine
end

