-- ==== Sys2Proof/Machine/State.lean ====
section
/-! DEFINITION. The architectural state (10_state.md), its value after hard reset (R270), and the reasons a step can
stop. -/

namespace Sys2Proof.Machine

/-- A word-addressed memory: (index, word) pairs in the one canonical form `Memory.wf` states. The word is the unit
because no space is byte-addressed (R60, R70; log 1). -/
abbrev Memory := List (Nat × Word)

/-- A ring memory with its position register (R101). -/
structure Ring (w : Nat) where
  mem : Memory
  pos : BitVec w
deriving DecidableEq, Repr

/-- A ring memory with its position register and its running sum (R37, R102). -/
structure SumRing (w : Nat) where
  mem : Memory
  pos : BitVec w
  sum : Word
deriving DecidableEq, Repr

/-- The reverb stage: active registers, positions, sums (R30) and rings 6 to 12 (R34). -/
structure Reverb where
  /-- `RVB_SIZE1` -/
  size1 : BitVec 17
  /-- `RVB_SIZE2` -/
  size2 : BitVec 17
  /-- `RVB_SIZE3` -/
  size3 : BitVec 17
  /-- `RVB_SIZE4` -/
  size4 : BitVec 17
  /-- `RVB_ATTN` -/
  attn : BitVec 3
  /-- `RV1`, `RVB_P1` -/
  rv1 : Ring 16
  /-- `RV2`, `RVB_P2` -/
  rv2 : Ring 16
  /-- `RV3`, `RVB_P3` -/
  rv3 : Ring 16
  /-- `RV4`, `RVB_P4` -/
  rv4 : Ring 16
  /-- `RLF`, `RLF_POS`, `RLF_SUM` -/
  rlf : SumRing 6
  /-- `RLD`, `RLD_POS` -/
  rld : Ring 5
  /-- `RLP`, `RLP_POS`, `RLP_SUM` -/
  rlp : SumRing 3
deriving DecidableEq, Repr

/-- The surround stage: active registers, positions, sums (R31) and rings 2 to 5 (R34). -/
structure Surround where
  /-- `SUR_SIZE` -/
  size : BitVec 17
  /-- `SUR_MULT` -/
  mult : BitVec 5
  /-- `SUR`, `SUR_POS` -/
  sur : Ring 16
  /-- `DHF`, `DHF_POS`, `DHF_SUM` -/
  dhf : SumRing 6
  /-- `DLF`, `DLF_POS`, `DLF_SUM` -/
  dlf : SumRing 6
  /-- `DLD`, `DLD_POS` -/
  dld : Ring 5
deriving DecidableEq, Repr

/-- The bass stage: active registers, positions, sum (R32) and rings 0 and 1 (R34). -/
structure Bass where
  /-- `BASS_MASK` -/
  mask : BitVec 8
  /-- `BASS_SHIFT` -/
  shift : BitVec 4
  /-- `BXR`, `BXR_POS`, `BXS_SUM` -/
  bxr : SumRing 8
  /-- `BXD`, `BXD_POS` (counted in stereo pairs) -/
  bxd : Ring 8
deriving DecidableEq, Repr

/-- The noise-reduction stage (R33). -/
structure Noise where
  /-- `NR_L` -/
  left : Word
  /-- `NR_R` -/
  right : Word
deriving DecidableEq, Repr

/-- The host's four kinds of action (R63): a 2-bit space, a 20-bit address, 32-bit words. -/
inductive HostAction where
  | hardReset
  | command (w : Word)
  | hostWrite (space : BitVec 2) (addr : BitVec 20) (v : Word)
  | hostRead (space : BitVec 2) (addr : BitVec 20)
deriving DecidableEq, Repr

/-- The whole architectural state (R20): the registers of R25 to R33, the thirteen rings of R34, the two buffers of
R36; and, last, three fields of the model's own. -/
structure State where
  /-- `STATUS.FAULT` (R25) -/
  fault : Bool
  /-- `STATUS.CAUSE` (R25) -/
  cause : BitVec 2
  /-- `FAULT_INFO` (R26) -/
  faultInfo : Word
  /-- `FLAGS` (R27) -/
  flags : BitVec 4
  /-- `RATE` (R28) -/
  rate : BitVec 20
  /-- `RVB_DEPTH` (R29) -/
  rvbDepth : BitVec 3
  /-- `RVB_DELAY` (R29) -/
  rvbDelay : BitVec 8
  /-- `BASS_DEPTH` (R29) -/
  bassDepth : BitVec 4
  /-- `BASS_RANGE` (R29) -/
  bassRange : BitVec 5
  /-- `SUR_DEPTH` (R29) -/
  surDepth : BitVec 5
  /-- `SUR_DELAY` (R29) -/
  surDelay : BitVec 6
  rvb : Reverb
  sur : Surround
  bass : Bass
  nr : Noise
  /-- the words of `MIX` something has written since the last hard reset (R36; log 2) -/
  mix : Memory
  /-- the words of `DRY` something has written since the last hard reset (R36; log 2) -/
  dry : Memory
  /-- the model's own: the number of hard resets so far, which selects fresh free values (log 3) -/
  resets : Nat
  /-- the model's own: the actions the host has issued and the core has not yet taken (R63; log 4) -/
  port : List HostAction
  /-- the model's own: the value the last action returned to the host, if it returned one (R63; log 5) -/
  reply : Option Word
deriving DecidableEq, Repr

/-- The reasons the model stops. The spec's own three faults (R250) are no stops: their entry is a next state. -/
inductive Fault where
  /-- Raised by `PROC` when an enabled stage would access a ring at a position not below its capacity. R14 gives
  `RING[j]` a meaning only for `0 ≤ j <` its capacity, and R38, R250 say no command computes another index. SAFE: no state
  that meets R38's bounds raises it (log 7). -/
  | ringIndexBeyondCapacity
deriving DecidableEq, Repr

/-- The reasons an instruction has no meaning in the model. -/
inductive Refusal where
  /-- Raised by `exec` for a command whose meaning is not written. No arm of this model raises it. SAFE. -/
  | notModelled (mnemonic : String)
deriving DecidableEq, Repr

/-- R270: every active register, position, sum and ring entry of the reverb stage is 0. -/
def Reverb.reset : Reverb where
  size1 := 0
  size2 := 0
  size3 := 0
  size4 := 0
  attn := 0
  rv1 := { mem := [], pos := 0 }
  rv2 := { mem := [], pos := 0 }
  rv3 := { mem := [], pos := 0 }
  rv4 := { mem := [], pos := 0 }
  rlf := { mem := [], pos := 0, sum := 0 }
  rld := { mem := [], pos := 0 }
  rlp := { mem := [], pos := 0, sum := 0 }

/-- R270 for the surround stage. -/
def Surround.reset : Surround where
  size := 0
  mult := 0
  sur := { mem := [], pos := 0 }
  dhf := { mem := [], pos := 0, sum := 0 }
  dlf := { mem := [], pos := 0, sum := 0 }
  dld := { mem := [], pos := 0 }

/-- R270 for the bass stage. -/
def Bass.reset : Bass where
  mask := 0
  shift := 0
  bxr := { mem := [], pos := 0, sum := 0 }
  bxd := { mem := [], pos := 0 }

/-- The machine right after hard reset (R270). `MIX` and `DRY` list nothing: every word of them is unspecified
(log 2). The model's own fields are 0, empty and none (log 3, 4, 5). -/
def State.reset : State where
  fault := false
  cause := 0
  faultInfo := 0
  flags := 0
  rate := BitVec.ofNat 20 config.defRate
  rvbDepth := BitVec.ofNat 3 config.defRvbDepth
  rvbDelay := BitVec.ofNat 8 config.defRvbDelay
  bassDepth := BitVec.ofNat 4 config.defBassDepth
  bassRange := BitVec.ofNat 5 config.defBassRange
  surDepth := BitVec.ofNat 5 config.defSurDepth
  surDelay := BitVec.ofNat 6 config.defSurDelay
  rvb := Reverb.reset
  sur := Surround.reset
  bass := Bass.reset
  nr := { left := 0, right := 0 }
  mix := []
  dry := []
  resets := 0
  port := []
  reply := none

end Sys2Proof.Machine
end

