-- ==== Sys2Proof/Machine/Flags.lean ====
section
/-! DEFINITION. The fields of `FLAGS` (R27) and `STATUS` (R25). There are no condition codes (R23). -/

namespace Sys2Proof.Machine

/-- `FLAGS.RVB`, bit 0. -/
def flagRvb (f : BitVec 4) : Bool := f.getLsbD 0

/-- `FLAGS.SUR`, bit 1. -/
def flagSur (f : BitVec 4) : Bool := f.getLsbD 1

/-- `FLAGS.BASS`, bit 2. -/
def flagBass (f : BitVec 4) : Bool := f.getLsbD 2

/-- `FLAGS.NR`, bit 3. -/
def flagNr (f : BitVec 4) : Bool := f.getLsbD 3

/-- `STATUS` as the host reads it (R25): `FAULT` in bit 0, `CAUSE` in bits 2:1, the reserved bits 0. -/
def statusWord (s : State) : Word := BitVec.ofNat 32 (s.fault.toNat + 2 * s.cause.toNat)

/-- The cause codes of R250. -/
inductive Cause where
  | illegalCommand
  | capacityViolation
  | badHostAccess
deriving DecidableEq, Repr

/-- The code a fault records in `STATUS.CAUSE` (R25, R250). -/
def Cause.code : Cause → BitVec 2
  | .illegalCommand => 1
  | .capacityViolation => 2
  | .badHostAccess => 3

end Sys2Proof.Machine
end

