-- ==== Sys2Proof/Machine/Memory.lean ====
section
/-! DEFINITION. The named operations over one word-addressed memory: the sparse list in canonical form, a ring's entries
(R34) and their sum over the whole capacity (R37). -/

namespace Sys2Proof.Machine

/-- Put `v` at index `a`, keeping the indices rising. -/
def memInsert : Memory → Nat → Word → Memory
  | [], a, v => [(a, v)]
  | (b, u) :: m, a, v =>
    if a < b then (a, v) :: (b, u) :: m
    else if a = b then (a, v) :: m
    else (b, u) :: memInsert m a v

/-- Drop the entry at index `a`. -/
def memErase (m : Memory) (a : Nat) : Memory := m.filter fun c => c.1 != a

/-- The word at index `a`; an unlisted index reads as `unlisted` (`some 0` for a ring, `none` for a buffer). -/
def memRead (unlisted : Option Word) (m : Memory) (a : Nat) : Option Word :=
  match m.lookup a with
  | some v => some v
  | none => unlisted

/-- Write `v` at index `a`; writing what an unlisted index reads as removes the entry. -/
def memWrite (unlisted : Option Word) (m : Memory) (a : Nat) (v : Word) : Memory :=
  if some v = unlisted then memErase m a else memInsert m a v

/-- The indices rise strictly, from `lo` on. -/
def risingFrom : Nat → Memory → Bool
  | _, [] => true
  | lo, (a, _) :: m => decide (lo ≤ a) && risingFrom (a + 1) m

/-- The canonical form of a memory of `size` words: indices strictly rising and below `size`, no entry equal to what an
unlisted index reads as. -/
def Memory.wf (size : Nat) (unlisted : Option Word) (m : Memory) : Bool :=
  risingFrom 0 m && m.all fun c => decide (c.1 < size) && decide (some c.2 ≠ unlisted)

/-- Entry `j` of a ring memory (R14 `RING[j]`). Every entry is 0 after hard reset (R34). -/
def ringRead (m : Memory) (j : Nat) : Word := (memRead (some 0) m j).getD 0

/-- `RING[j] <- v` (R14). -/
def ringWrite (m : Memory) (j : Nat) (v : Word) : Memory := memWrite (some 0) m j v

/-- The exact sum of entries `0 .. n − 1` of a ring, as a signed integer (R37's `Σ ring[j]`). -/
def ringTotal (m : Memory) : Nat → Int
  | 0 => 0
  | n + 1 => ringTotal m n + (ringRead m n).toInt

end Sys2Proof.Machine
end

