-- ==== Sys2Proof/Machine/Signal.lean ====
section
/-! DEFINITION. Signal arithmetic (00_scope.md R9 to R11). Sums, differences and products of signal values are written
with `+`, `-`, `*` on 32-bit words, which compute modulo 2^32: they are `wrap32` of the exact integer result
(Laws/Signal.lean, `add_eq_wrap32` and its like). -/

namespace Sys2Proof.Machine

/-- R10: the word congruent to the integer `x` modulo 2^32. -/
def wrap32 (x : Int) : Word := BitVec.ofInt 32 x

/-- R11: the arithmetic right shift, rounding toward negative infinity. -/
def asr (x : Word) (n : Nat) : Word := x.sshiftRight n

/-- R12: `clamp(x, lo, hi) = min(max(x, lo), hi)` on naturals. -/
def clamp (x lo hi : Nat) : Nat := min (max x lo) hi

end Sys2Proof.Machine
end

