-- ==== Sys2Proof/Machine/RingOps.lean ====
section
/-! DEFINITION. The shared components of 40_mask_ring_runsum.md: the mask utility, ring advance, the delay-line access and
the running-sum filter, each defined once (R107). -/

namespace Sys2Proof.Machine

/-- `MASK(n)` (R100): 0 for 0; else `2^k − 1` with `2^k > n ≥ 2^(k−1)`, that is `k` the bit length of `n`. -/
def maskOf (n : Nat) : Nat := if n = 0 then 0 else 2 ^ (Nat.log2 n + 1) - 1

/-- `BASS_RING_CAP` (R7): derived from the cap on the bass window through `MASK`. -/
def bassRingCap : Nat := maskOf config.maxBassWindow + 1

/-- R101: `POS <- (POS + 1) & M`. -/
def advanceByMask {w : Nat} (m : Nat) (pos : BitVec w) : BitVec w := BitVec.ofNat w ((pos.toNat + 1) &&& m)

/-- R103: `if POS + 1 ≥ N then POS <- 0 else POS <- POS + 1`. -/
def advanceBySize {w : Nat} (n : Nat) (pos : BitVec w) : BitVec w :=
  if pos.toNat + 1 ≥ n then 0 else BitVec.ofNat w (pos.toNat + 1)

/-- R101, R105: the entry at the current position. -/
def ringTap {w : Nat} (r : Ring w) : Word := ringRead r.mem r.pos.toNat

/-- R105: write the entry at the current position. -/
def ringPut {w : Nat} (v : Word) (r : Ring w) : Ring w := { r with mem := ringWrite r.mem r.pos.toNat v }

/-- A write at the current position, then the advance by mask (R101). -/
def ringPutMask {w : Nat} (m : Nat) (v : Word) (r : Ring w) : Ring w :=
  { ringPut v r with pos := advanceByMask m r.pos }

/-- A write at the current position, then the advance by size (R103). -/
def ringPutSize {w : Nat} (n : Nat) (v : Word) (r : Ring w) : Ring w :=
  { ringPut v r with pos := advanceBySize n r.pos }

/-- `RSUM.STEP` (R102), its four lines in order. -/
def sumStep {w : Nat} (m : Nat) (v : Word) (f : SumRing w) : SumRing w :=
  let sum1 := f.sum - ringRead f.mem f.pos.toNat
  let mem1 := ringWrite f.mem f.pos.toNat v
  let sum2 := sum1 + v
  { mem := mem1, pos := advanceByMask m f.pos, sum := sum2 }

/-- A ring with every entry and its position 0 (the `CLEAR` operations, R126 to R128). -/
def Ring.cleared {w : Nat} : Ring w := { mem := [], pos := 0 }

/-- A running-sum filter with every entry, its position and its sum 0 (R126 to R128). -/
def SumRing.cleared {w : Nat} : SumRing w := { mem := [], pos := 0, sum := 0 }

end Sys2Proof.Machine
end

