-- ==== Sys2Proof/Machine/Ops.lean ====
section
/-! DEFINITION. The named operations over the state: its updates, the sample buffers, fault entry (R254) and the hard
reset (R270), which is the only return from a fault (R258). -/

namespace Sys2Proof.Machine

/-- `FLAGS <- v`. -/
def State.setFlags (v : BitVec 4) (s : State) : State := { s with flags := v }

/-- `RATE <- v`. -/
def State.setRate (v : BitVec 20) (s : State) : State := { s with rate := v }

/-- `RVB_DEPTH <- depth; RVB_DELAY <- delay`. -/
def State.setRvbParams (depth : BitVec 3) (delay : BitVec 8) (s : State) : State :=
  { s with rvbDepth := depth, rvbDelay := delay }

/-- `BASS_DEPTH <- depth; BASS_RANGE <- range`. -/
def State.setBassParams (depth : BitVec 4) (range : BitVec 5) (s : State) : State :=
  { s with bassDepth := depth, bassRange := range }

/-- `SUR_DEPTH <- depth; SUR_DELAY <- delay`. -/
def State.setSurParams (depth : BitVec 5) (delay : BitVec 6) (s : State) : State :=
  { s with surDepth := depth, surDelay := delay }

/-- Replace the reverb stage's registers and rings. -/
def State.setRvb (h : Reverb) (s : State) : State := { s with rvb := h }

/-- Replace the surround stage's registers and rings. -/
def State.setSur (h : Surround) (s : State) : State := { s with sur := h }

/-- Replace the bass stage's registers and rings. -/
def State.setBass (h : Bass) (s : State) : State := { s with bass := h }

/-- Replace the noise-reduction scalars. -/
def State.setNr (h : Noise) (s : State) : State := { s with nr := h }

/-- Replace the words of `MIX`. -/
def State.setMix (m : Memory) (s : State) : State := { s with mix := m }

/-- Replace the words of `DRY`. -/
def State.setDry (m : Memory) (s : State) : State := { s with dry := m }

/-- Replace the list of actions the core has not yet taken. -/
def State.setPort (p : List HostAction) (s : State) : State := { s with port := p }

/-- Record the value an action returned. -/
def State.setReply (r : Option Word) (s : State) : State := { s with reply := r }

/-- The size of each sample buffer in words (R60). -/
def bufferSize : Nat := 2 * config.blockCapacity

/-- `MIX[j]` (R14, R61). A word nothing has written since the hard reset holds a free value (R36, R78; log 2). -/
def mixWord (s : State) (j : Nat) : Word :=
  (memRead none s.mix j).getD (Config.unwrittenWord s.resets .mix j)

/-- `DRY[j]` (R14, R62); as `mixWord`. -/
def dryWord (s : State) (j : Nat) : Word :=
  (memRead none s.dry j).getD (Config.unwrittenWord s.resets .dry j)

/-- `MIX[j] <- v` (R14). -/
def writeMix (j : Nat) (v : Word) (s : State) : State := s.setMix (memWrite none s.mix j v)

/-- `DRY[j] <- v`, by the host only (R62, R66). -/
def writeDry (j : Nat) (v : Word) (s : State) : State := s.setDry (memWrite none s.dry j v)

/-- `MIX[2i] <- l; MIX[2i+1] <- r`: the two words of pair `i` (R15). -/
def writePair (i : Nat) (l r : Word) (s : State) : State := writeMix (2 * i + 1) r (writeMix (2 * i) l s)

/-- R68: the little-endian byte image of a buffer's listed words, word `j` at byte offset `4j`, least significant byte
first. For use outside the hardware; no rule of the machine reads it. -/
def byteImage (m : Memory) : List Host.Cell :=
  m.flatMap fun c => (List.range 4).map fun k => (4 * c.1 + k, c.2.extractLsb' (8 * k) 8)

/-- Fault entry, `raise F(info)` (R254): `STATUS.FAULT <- 1`, `STATUS.CAUSE <- code`, `FAULT_INFO <- info`, and nothing
else. -/
def raise (f : Cause) (info : Word) (s : State) : State :=
  { s with fault := true, cause := f.code, faultInfo := info }

/-- `HardReset` (R270), accepted in every state; the only action that leaves the faulted state (R258). Every field takes
its value after reset; the buffers' words are unspecified anew (log 3); the actions the host has issued after this one
stay issued (log 4). -/
def hardReset (s : State) : State := { State.reset with resets := s.resets + 1, port := s.port }

end Sys2Proof.Machine
end

