-- ==== Sys2Proof/Machine/BassStage.lean ====
section
/-! DEFINITION. The bass expansion stage (44_bass.md). -/

namespace Sys2Proof.Machine

/-- Both positions lie within their rings (R14, R38: `BXD_POS` counts pairs). -/
def bassInRange (h : Bass) : Bool := decide (h.bxr.pos.toNat < bassRingCap) && decide (h.bxd.pos.toNat < bassRingCap)

/-- R181: the value fed to the running sum: a bias `2^s − 1` only when the wrapped sum is negative, then `asr` by `s`
(90_conflicts.md C2). -/
def bassFeed (l r : Word) (shift : Nat) : Word :=
  let t0 := l + r
  let bias : Word := if t0.toInt < 0 then BitVec.ofNat 32 (2 ^ shift - 1) else 0
  asr (t0 + bias) shift

/-- `BASS.STEP` (R181) as a function of the `MIX` pair and the stage's history. -/
def bassStep (l r : Word) (h : Bass) : Bass × Word × Word :=
  let bxr := sumStep h.mask.toNat (bassFeed l r h.shift.toNat) h.bxr
  let p := h.bxd.pos.toNat
  let vL := ringRead h.bxd.mem (2 * p)
  let vR := ringRead h.bxd.mem (2 * p + 1)
  let mem := ringWrite (ringWrite h.bxd.mem (2 * p) l) (2 * p + 1) r
  ({ h with bxr := bxr, bxd := { mem := mem, pos := advanceByMask h.mask.toNat h.bxd.pos } }, vL + bxr.sum, vR + bxr.sum)

/-- `BASS.STEP(i)` on the machine (R181); none where a position lies beyond its ring's capacity (log 7). -/
def bassStepAt (i : Nat) (s : State) : Option State :=
  if bassInRange s.bass then
    let out := bassStep (mixWord s (2 * i)) (mixWord s (2 * i + 1)) s.bass
    some (writePair i out.2.1 out.2.2 (s.setBass out.1))
  else none

end Sys2Proof.Machine
end

