-- ==== Sys2Proof/Machine/NoiseStage.lean ====
section
/-! DEFINITION. The noise-reduction stage (45_noise_reduction.md). -/

namespace Sys2Proof.Machine

/-- `NR.STEP` (R201) as a function of the `MIX` pair and the two scalars. -/
def nrStep (l r : Word) (h : Noise) : Noise × Word × Word :=
  let hL := asr l 1
  let hR := asr r 1
  ({ left := hL, right := hR }, hL + h.left, hR + h.right)

/-- `NR.STEP(i)` on the machine (R201). It accesses no ring (R35). -/
def nrStepAt (i : Nat) (s : State) : Option State :=
  let out := nrStep (mixWord s (2 * i)) (mixWord s (2 * i + 1)) s.nr
  some (writePair i out.2.1 out.2.2 (s.setNr out.1))

end Sys2Proof.Machine
end

