-- ==== Sys2Proof/Machine/ReverbStage.lean ====
section
/-! DEFINITION. The reverb stage (42_reverb.md). -/

namespace Sys2Proof.Machine

/-- The four tap positions lie within their lines (R14, R38). `RLF`, `RLD`, `RLP` are as long as their position
registers count. -/
def rvbInRange (h : Reverb) : Bool :=
  decide (h.rv1.pos.toNat < config.maxReverb) && decide (h.rv2.pos.toNat < config.maxReverb2) &&
    decide (h.rv3.pos.toNat < config.maxReverb3) && decide (h.rv4.pos.toNat < config.maxReverb4)

/-- `RVB.STEP` (R141) as a function of the dry pair, the `MIX` pair and the stage's history: the new history and the new
`MIX` pair. The locals bear the names of R141. -/
def rvbStep (dL dR l r : Word) (h : Reverb) : Reverb × Word × Word :=
  let echo := ringTap h.rv1 + ringTap h.rv2 + ringTap h.rv3 + ringTap h.rv4
  let echodly0 := ringTap h.rld
  let rld := ringPutMask 0x1F (asr echo 1) h.rld
  let t := asr echo 7
  let rlf := sumStep 0x3F t h.rlf
  let echodly := echodly0 - rlf.sum
  let v1 := asr (dL + dR) h.attn.toNat + asr echodly 2
  let v2 := asr (v1 + asr echodly 4) 1
  let rlp := sumStep 7 v2 h.rlp
  let vlp := asr rlp.sum 2
  ({ h with
      rld := rld
      rlf := rlf
      rlp := rlp
      rv1 := ringPutSize h.size1.toNat vlp h.rv1
      rv2 := ringPutSize h.size2.toNat vlp h.rv2
      rv3 := ringPutSize h.size3.toNat v1 h.rv3
      rv4 := ringPutSize h.size4.toNat v1 h.rv4 },
    l + dL + echodly, r + dR + echodly)

/-- `RVB.STEP(i)` on the machine (R141); none where a tap lies beyond its line's capacity (log 7). -/
def rvbStepAt (i : Nat) (s : State) : Option State :=
  if rvbInRange s.rvb then
    let out := rvbStep (dryWord s (2 * i)) (dryWord s (2 * i + 1)) (mixWord s (2 * i)) (mixWord s (2 * i + 1)) s.rvb
    some (writePair i out.2.1 out.2.2 (s.setRvb out.1))
  else none

end Sys2Proof.Machine
end

