-- ==== Sys2Proof/Machine/SurroundStage.lean ====
section
/-! DEFINITION. The surround stage (43_surround.md). -/

namespace Sys2Proof.Machine

/-- The position of the surround delay lies within the ring (R14, R38). -/
def surInRange (h : Surround) : Bool := decide (h.sur.pos.toNat < config.maxSurround)

/-- `SUR.STEP` (R161) as a function of the `MIX` pair and the stage's history. The locals bear the names of R161. -/
def surStep (l r : Word) (h : Surround) : Surround × Word × Word :=
  let m0 := asr (l + r + BitVec.ofNat 32 config.dolbyRound) config.dolbyShift
  let m1 := m0 * BitVec.ofNat 32 h.mult.toNat
  let dhf := sumStep 0x3F m1 h.dhf
  let secho := ringTap h.sur
  let d := ringTap h.dld
  let dld := ringPutMask 0x1F secho h.dld
  let t := asr secho config.dolbyLoShift
  let dlf := sumStep 0x3F t h.dlf
  let v := d - dlf.sum
  ({ h with dhf := dhf, sur := ringPutSize h.size.toNat dhf.sum h.sur, dld := dld, dlf := dlf }, l + v, r - v)

/-- `SUR.STEP(i)` on the machine (R161); none where the position lies beyond the ring's capacity (log 7). -/
def surStepAt (i : Nat) (s : State) : Option State :=
  if surInRange s.sur then
    let out := surStep (mixWord s (2 * i)) (mixWord s (2 * i + 1)) s.sur
    some (writePair i out.2.1 out.2.2 (s.setSur out.1))
  else none

end Sys2Proof.Machine
end

