-- ==== Sys2Proof/Machine/Process.lean ====
section
/-! DEFINITION. `PROC` and the pipeline (47_process_block.md). -/

namespace Sys2Proof.Machine

/-- `for i = 0 .. n − 1 do step(i)`, in that order (R232); none as soon as a step is none. -/
def forPairs : Nat → (Nat → State → Option State) → State → Option State
  | 0, _, s => some s
  | n + 1, step, s => (forPairs n step s).bind (step n)

/-- One stage of a block: its steps where it is enabled, nothing at all where it is not (R231). -/
def runStage (enabled : Bool) (count : Nat) (step : Nat → State → Option State) (s : State) : Option State :=
  if enabled then forPairs count step s else some s

/-- The four stages in their fixed order over `count` pairs (R230, R231), `f` the flags latched at the start. -/
def procBlock (f : BitVec 4) (count : Nat) (s : State) : Option State :=
  (((runStage (flagRvb f) count rvbStepAt s).bind
    (runStage (flagSur f) count surStepAt)).bind
    (runStage (flagBass f) count bassStepAt)).bind
    (runStage (flagNr f) count nrStepAt)

/-- `PROC count` (R230): first the capacity check (R234), whatever `FLAGS` holds; then the stages. -/
def execProc (count : Nat) (s : State) : Host.Outcome State Fault Refusal :=
  if count > config.blockCapacity then .next (raise .capacityViolation (encode (.proc count)) s)
  else
    match procBlock s.flags count s with
    | some t => .next t
    | none => .fault .ringIndexBeyondCapacity

end Sys2Proof.Machine
end

