-- ==== Sys2Proof/Machine/Operands.lean ====
section
/-! DEFINITION. The parameter translator: how a setter's operands (R83) become parameter values (46_parameter_setters.md),
and how the initializer's arithmetic turns those into sizes (R12, R122 to R124, R132). All of it on naturals, exact. -/

namespace Sys2Proof.Machine

/-- R211, R212: `gain = min(depth div 20, 4)`. -/
def gainOf (depth : Nat) : Nat := min (depth / 20) 4

/-- R211: `RVB_DEPTH` is `4 − gain`. -/
def rvbDepthOf (depth : Nat) : Nat := 4 - gainOf depth

/-- R211: the delay clamped to 40 .. 250 ms. -/
def rvbDelayOf (delayMs : Nat) : Nat := clamp delayMs 40 250

/-- R212: `BASS_DEPTH` is `8 − gain`. -/
def bassDepthOf (depth : Nat) : Nat := 8 - gainOf depth

/-- R212, R213: `BASS_RANGE` is `BASSRANGE(rangeHz)`. -/
def bassRangeOf (rangeHz : Nat) : Nat := config.bassRange rangeHz

/-- R214: `SUR_DEPTH` is `clamp((depth × 16) div 100, 1, 16)`. -/
def surDepthOf (depth : Nat) : Nat := clamp (depth * 16 / 100) 1 16

/-- R214: the delay clamped to 4 .. 50 ms. -/
def surDelayOf (delayMs : Nat) : Nat := clamp delayMs 4 50

/-- R122: `min((RVB_DELAY × RATE) div 1000, MAX_REVERB_CAPACITY)`. -/
def rvbLength (delay rate : Nat) : Nat := min (delay * rate / 1000) config.maxReverb

/-- R122: the second line's length, `min((n × 13) div 17, MAX_REVERB2_CAPACITY)`. -/
def rvbLength2 (n : Nat) : Nat := min (n * 13 / 17) config.maxReverb2

/-- R122: the third line's length, `min((n × 7) div 13, MAX_REVERB3_CAPACITY)`. -/
def rvbLength3 (n : Nat) : Nat := min (n * 7 / 13) config.maxReverb3

/-- R122: the fourth line's length, `min((n × 7) div 19, MAX_REVERB4_CAPACITY)`. -/
def rvbLength4 (n : Nat) : Nat := min (n * 7 / 19) config.maxReverb4

/-- R123: `min((SUR_DELAY × RATE) div 1000, MAX_SURROUND_CAPACITY)`. -/
def surLength (delay rate : Nat) : Nat := min (delay * rate / 1000) config.maxSurround

/-- R123: `SURCURVE(SUR_DEPTH) div 4`. -/
def surMultOf (depth : Nat) : Nat := config.surCurve depth / 4

/-- R124: `min((RATE × BASS_RANGE) div 10000, MAX_BASS_WINDOW)`. -/
def bassWindow (rate range : Nat) : Nat := min (rate * range / 10000) config.maxBassWindow

end Sys2Proof.Machine
end

