-- ==== Sys2Proof/Machine/Init.lean ====
section
/-! DEFINITION. `INIT` and its parts (41_initializer.md). -/

namespace Sys2Proof.Machine

/-- `INIT.SANITISE` (R121). -/
def initSanitise (s : State) : State :=
  let rvbDelay := if s.rvbDelay = 0 then BitVec.ofNat 8 config.defRvbDelay else s.rvbDelay
  let bassRange := if s.bassRange = 0 then BitVec.ofNat 5 config.defBassRange else s.bassRange
  let surDelay := if s.surDelay = 0 then BitVec.ofNat 6 config.defSurDelay else s.surDelay
  let bassDepth := BitVec.ofNat 4 (clamp s.bassDepth.toNat 2 8)
  ((s.setRvbParams s.rvbDepth rvbDelay).setBassParams bassDepth bassRange).setSurParams s.surDepth surDelay

/-- `CLEAR.NR` (R129). -/
def clearNr : Noise := { left := 0, right := 0 }

/-- `CLEAR.RVB` (R126): rings, positions and sums; not the sizes, not `RVB_ATTN`. -/
def clearRvb (h : Reverb) : Reverb :=
  { h with
    rv1 := Ring.cleared, rv2 := Ring.cleared, rv3 := Ring.cleared, rv4 := Ring.cleared,
    rlf := SumRing.cleared, rld := Ring.cleared, rlp := SumRing.cleared }

/-- `CLEAR.SUR` (R127): rings, positions and sums; not `SUR_SIZE`, not `SUR_MULT`. -/
def clearSur (h : Surround) : Surround :=
  { h with sur := Ring.cleared, dhf := SumRing.cleared, dlf := SumRing.cleared, dld := Ring.cleared }

/-- `CLEAR.BASS` (R128): rings, positions and sum; not `BASS_MASK`, not `BASS_SHIFT`. -/
def clearBass (h : Bass) : Bass := { h with bxr := SumRing.cleared, bxd := Ring.cleared }

/-- `INIT.NR(reset)` (R125). -/
def initNr (reset : Bool) (s : State) : State := if reset then s.setNr clearNr else s

/-- The enabled branch of `INIT.RVB` (R122): `n` the first line's length, `a` the attenuation. -/
def initRvbOn (reset : Bool) (n a : Nat) (h : Reverb) : Reverb :=
  if reset ∨ n ≠ h.size1.toNat ∨ a ≠ h.attn.toNat then
    clearRvb
      { h with
        attn := BitVec.ofNat 3 a
        size1 := BitVec.ofNat 17 n
        size2 := BitVec.ofNat 17 (rvbLength2 n)
        size3 := BitVec.ofNat 17 (rvbLength3 n)
        size4 := BitVec.ofNat 17 (rvbLength4 n) }
  else h

/-- The disabled branch of `INIT.RVB` (R122). -/
def initRvbOff (reset : Bool) (h : Reverb) : Reverb :=
  let h0 := { h with size1 := 0, size2 := 0, size3 := 0, size4 := 0 }
  if reset then clearRvb h0 else h0

/-- `INIT.RVB(reset)` (R122). -/
def initRvb (reset : Bool) (s : State) : State :=
  bif flagRvb s.flags then
    s.setRvb (initRvbOn reset (rvbLength s.rvbDelay.toNat s.rate.toNat) (s.rvbDepth.toNat + 1) s.rvb)
  else s.setRvb (initRvbOff reset s.rvb)

/-- The enabled branch of `INIT.SUR` (R123): `n` the delay length, `k` the multiplier. -/
def initSurOn (reset : Bool) (n k : Nat) (h : Surround) : Surround :=
  let h1 := { h with mult := BitVec.ofNat 5 k }
  if reset ∨ n ≠ h1.size.toNat then clearSur { h1 with size := BitVec.ofNat 17 n } else h1

/-- The disabled branch of `INIT.SUR` (R123). -/
def initSurOff (reset : Bool) (h : Surround) : Surround :=
  let h0 := { h with size := 0 }
  if reset then clearSur h0 else h0

/-- `INIT.SUR(reset)` (R123). -/
def initSur (reset : Bool) (s : State) : State :=
  bif flagSur s.flags then
    s.setSur (initSurOn reset (surLength s.surDelay.toNat s.rate.toNat) (surMultOf s.surDepth.toNat) s.sur)
  else s.setSur (initSurOff reset s.sur)

/-- The enabled branch of `INIT.BASS` (R124): `m` the mask, `k` the shift. -/
def initBassOn (reset : Bool) (m k : Nat) (h : Bass) : Bass :=
  let h1 := { h with shift := BitVec.ofNat 4 k }
  if reset ∨ m ≠ h1.mask.toNat then clearBass { h1 with mask := BitVec.ofNat 8 m } else h1

/-- The disabled branch of `INIT.BASS` (R124). -/
def initBassOff (reset : Bool) (h : Bass) : Bass :=
  let h0 := { h with mask := 0 }
  if reset then clearBass h0 else h0

/-- `INIT.BASS(reset)` (R124, R134: the shift is `BASS_DEPTH + 1`). -/
def initBass (reset : Bool) (s : State) : State :=
  bif flagBass s.flags then
    s.setBass (initBassOn reset (maskOf (bassWindow s.rate.toNat s.bassRange.toNat)) (s.bassDepth.toNat + 1) s.bass)
  else s.setBass (initBassOff reset s.bass)

/-- `INIT` (R120): the five parts in order. -/
def initialise (reset : Bool) (s : State) : State :=
  initBass reset (initSur reset (initRvb reset (initNr reset (initSanitise s))))

/-- `INIT reset` (R120). No fault. -/
def execInit (reset : Nat) (s : State) : Host.Outcome State Fault Refusal := .next (initialise (reset == 1) s)

end Sys2Proof.Machine
end

