-- ==== Sys2Proof/Machine/Setters.lean ====
section
/-! DEFINITION. `SETRVB`, `SETBASS`, `SETSUR`, `SETCFG`, `SETRATE` (46_parameter_setters.md). None faults (R210). -/

namespace Sys2Proof.Machine

/-- `SETRVB depth, delayMs` (R211). -/
def execSetrvb (depth delayMs : Nat) (s : State) : Host.Outcome State Fault Refusal :=
  .next (s.setRvbParams (BitVec.ofNat 3 (rvbDepthOf depth)) (BitVec.ofNat 8 (rvbDelayOf delayMs)))

/-- `SETBASS depth, rangeHz` (R212). -/
def execSetbass (depth rangeHz : Nat) (s : State) : Host.Outcome State Fault Refusal :=
  .next (s.setBassParams (BitVec.ofNat 4 (bassDepthOf depth)) (BitVec.ofNat 5 (bassRangeOf rangeHz)))

/-- `SETSUR depth, delayMs` (R214). -/
def execSetsur (depth delayMs : Nat) (s : State) : Host.Outcome State Fault Refusal :=
  .next (s.setSurParams (BitVec.ofNat 5 (surDepthOf depth)) (BitVec.ofNat 6 (surDelayOf delayMs)))

/-- `SETCFG flags` (R216): `FLAGS <- flags`, then `INIT` with `reset = 0`, all five parts. -/
def execSetcfg (flags : Nat) (s : State) : Host.Outcome State Fault Refusal :=
  .next (initialise false (s.setFlags (BitVec.ofNat 4 flags)))

/-- `SETRATE rate` (R218). -/
def execSetrate (rate : Nat) (s : State) : Host.Outcome State Fault Refusal := .next (s.setRate (BitVec.ofNat 20 rate))

end Sys2Proof.Machine
end

