-- ==== Sys2Proof/Machine/Dispatch.lean ====
section
/-! DEFINITION. One arm per command, each one direct call of its meaning. -/

namespace Sys2Proof.Machine

def exec (i : Instr) (s : State) : Host.Outcome State Fault Refusal :=
  match i with
  | .init reset => Sys2Proof.Machine.execInit reset s
  | .proc count => Sys2Proof.Machine.execProc count s
  | .setrvb depth delayMs => Sys2Proof.Machine.execSetrvb depth delayMs s
  | .setbass depth rangeHz => Sys2Proof.Machine.execSetbass depth rangeHz s
  | .setsur depth delayMs => Sys2Proof.Machine.execSetsur depth delayMs s
  | .setcfg flags => Sys2Proof.Machine.execSetcfg flags s
  | .setrate rate => Sys2Proof.Machine.execSetrate rate s

end Sys2Proof.Machine
end

