-- ==== Sys2Proof/Machine/HostAccess.lean ====
section
/-! DEFINITION. The host's reads and writes (20_memory.md R60 to R67), and the two read-only spaces. -/

namespace Sys2Proof.Machine

/-- A register of at most 32 bits as the host reads it, zero-extended (R64). -/
def csrValue {w : Nat} (v : BitVec w) : Word := BitVec.ofNat 32 v.toNat

/-- The `CSR` space: every defined address with what a read of it returns (R64; R25 to R33). -/
def csrTable (s : State) : List (Nat × Word) :=
  [ (0x00, statusWord s), (0x01, s.faultInfo), (0x02, csrValue s.flags), (0x03, csrValue s.rate),
    (0x04, csrValue s.rvbDepth), (0x05, csrValue s.rvbDelay), (0x06, csrValue s.bassDepth),
    (0x07, csrValue s.bassRange), (0x08, csrValue s.surDepth), (0x09, csrValue s.surDelay),
    (0x10, csrValue s.rvb.size1), (0x11, csrValue s.rvb.size2), (0x12, csrValue s.rvb.size3),
    (0x13, csrValue s.rvb.size4), (0x14, csrValue s.rvb.attn), (0x15, csrValue s.rvb.rv1.pos),
    (0x16, csrValue s.rvb.rv2.pos), (0x17, csrValue s.rvb.rv3.pos), (0x18, csrValue s.rvb.rv4.pos),
    (0x19, csrValue s.rvb.rlf.pos), (0x1A, s.rvb.rlf.sum), (0x1B, csrValue s.rvb.rld.pos),
    (0x1C, csrValue s.rvb.rlp.pos), (0x1D, s.rvb.rlp.sum),
    (0x20, csrValue s.sur.size), (0x21, csrValue s.sur.mult), (0x22, csrValue s.sur.sur.pos),
    (0x23, csrValue s.sur.dhf.pos), (0x24, s.sur.dhf.sum), (0x25, csrValue s.sur.dlf.pos),
    (0x26, s.sur.dlf.sum), (0x27, csrValue s.sur.dld.pos),
    (0x30, csrValue s.bass.mask), (0x31, csrValue s.bass.shift), (0x32, csrValue s.bass.bxr.pos),
    (0x33, s.bass.bxr.sum), (0x34, csrValue s.bass.bxd.pos),
    (0x38, s.nr.left), (0x39, s.nr.right) ]

/-- The `RING` space: ring id, capacity, contents (R34). -/
def ringTable (s : State) : List (Nat × Nat × Memory) :=
  [ (0, bassRingCap, s.bass.bxr.mem), (1, 2 * bassRingCap, s.bass.bxd.mem),
    (2, 64, s.sur.dlf.mem), (3, 64, s.sur.dhf.mem), (4, 32, s.sur.dld.mem),
    (5, config.maxSurround, s.sur.sur.mem),
    (6, config.maxReverb, s.rvb.rv1.mem), (7, config.maxReverb2, s.rvb.rv2.mem),
    (8, config.maxReverb3, s.rvb.rv3.mem), (9, config.maxReverb4, s.rvb.rv4.mem),
    (10, 64, s.rvb.rlf.mem), (11, 32, s.rvb.rld.mem), (12, 8, s.rvb.rlp.mem) ]

/-- R65: entry `index = a[15:0]` of ring `id = a[19:16]`; none for a reserved id or an index beyond the capacity. -/
def ringSpaceRead (s : State) (a : Nat) : Option Word :=
  match (ringTable s).lookup (a / 65536) with
  | some (cap, m) => if a % 65536 < cap then some (ringRead m (a % 65536)) else none
  | none => none

/-- The word a host read returns; none where R64 to R66 reject the access. -/
def spaceRead (s : State) (space : BitVec 2) (addr : BitVec 20) : Option Word :=
  if space = 0 then if addr.toNat < bufferSize then some (mixWord s addr.toNat) else none
  else if space = 1 then if addr.toNat < bufferSize then some (dryWord s addr.toNat) else none
  else if space = 2 then (csrTable s).lookup addr.toNat
  else ringSpaceRead s addr.toNat

/-- The state after an accepted host write; none where R64 to R66 reject the access: `CSR` and `RING` are read only. -/
def spaceWrite (s : State) (space : BitVec 2) (addr : BitVec 20) (v : Word) : Option State :=
  if space = 0 then if addr.toNat < bufferSize then some (writeMix addr.toNat v s) else none
  else if space = 1 then if addr.toNat < bufferSize then some (writeDry addr.toNat v s) else none
  else none

/-- R253: `FAULT_INFO` of a rejected access, `(space << 20) | addr`. -/
def accessInfo (space : BitVec 2) (addr : BitVec 20) : Word := BitVec.ofNat 32 ((space.toNat <<< 20) ||| addr.toNat)

/-- `HostRead(space, addr)`: the addressed word; a rejected read returns 0 and raises `BadHostAccess` (R253), except in
the faulted state, where it changes nothing else (R255). -/
def hostRead (space : BitVec 2) (addr : BitVec 20) (s : State) : State :=
  match spaceRead s space addr with
  | some v => s.setReply (some v)
  | none =>
    if s.fault then s.setReply (some 0)
    else raise .badHostAccess (accessInfo space addr) (s.setReply (some 0))

/-- `HostWrite(space, addr, v)`: ignored in the faulted state (R67, R255); else the write, or `BadHostAccess` with nothing
written (R253). -/
def hostWrite (space : BitVec 2) (addr : BitVec 20) (v : Word) (s : State) : State :=
  if s.fault then s
  else
    match spaceWrite s space addr v with
    | some t => t
    | none => raise .badHostAccess (accessInfo space addr) s

end Sys2Proof.Machine
end

