-- ==== Sys2Proof/Machine/Port.lean ====
section
/-! DEFINITION. The command port: decoding and running a command (R85), performing one host action (R63), and taking the
next one (R22). Step.lean only calls these. -/

namespace Sys2Proof.Machine

/-- `Command(w)` (R85, R257): ignored in the faulted state; else decoded; an illegal word raises `IllegalCommand` (R251); a
command is performed. -/
def acceptCommand (w : Word) (s : State) : Host.Outcome State Fault Refusal :=
  if s.fault then .next s
  else
    match decode w with
    | .error _ => .next (raise .illegalCommand w s)
    | .ok i => exec i s

/-- One host action (R63). -/
def perform (a : HostAction) (s : State) : Host.Outcome State Fault Refusal :=
  match a with
  | .hardReset => .next (hardReset s)
  | .command w => acceptCommand w s
  | .hostWrite space addr v => .next (hostWrite space addr v s)
  | .hostRead space addr => .next (hostRead space addr s)

/-- The state in which the core performs the next action: the action taken off the port, no value returned yet. -/
def taken (rest : List HostAction) (s : State) : State := (s.setPort rest).setReply none

/-- Take the next action the host has issued and perform it. With none issued the core is idle and holds its state (R22,
R260). -/
def serviceNext (s : State) : Host.Outcome State Fault Refusal :=
  match s.port with
  | [] => .next s
  | a :: rest => perform a (taken rest s)

/-- Put a command at the front of the port, so that it is the next action the core takes. -/
def presentCommand (w : Word) (s : State) : State := s.setPort (.command w :: s.port)

end Sys2Proof.Machine
end

