-- ==== Sys2Proof/Machine/Step.lean ====
section
/-! DEFINITION. One step of the machine: one host action (R16, R63, R281). -/

namespace Sys2Proof.Machine

/-- One step: take the next host action and perform it, as one atomic transition of the whole state (R16). -/
def step (s : State) : Host.Outcome State Fault Refusal := serviceNext s

/-- `s` with the command whose low `nbits` bits are those of `w`, its other bits 0, presented on the command port as the
next action (log 4: commands come from the host; there is no program memory, R22, R76). -/
def State.withFetchWord (s : State) (nbits w : Nat) : State := presentCommand (BitVec.ofNat 32 (w % 2 ^ nbits)) s

end Sys2Proof.Machine
end

