-- ==== Sys2Proof/Machine/Assembler.lean ====
section
/-! DEFINITION. The assembler syntax of 30_encoding.md R86, R87: one host action a line, from its text to the actions. No
rule of the machine reads it; programs (95_test_vectors.md) are written in it. Text is a list of characters. -/

namespace Sys2Proof.Machine

/-- A line of R86 with its operands read. -/
inductive AsmLine where
  /-- an empty or comment line -/
  | blank
  /-- a command -/
  | instr (i : Instr)
  /-- a pseudo-instruction (R87) -/
  | pseudo (p : Pseudo)
  /-- `.word w` -/
  | rawWord (w : Nat)
  /-- `.mix i, l, r` -/
  | mix (i : Nat) (l r : Int)
  /-- `.dry i, l, r` -/
  | dry (i : Nat) (l r : Int)
  /-- `.reset` -/
  | reset
deriving DecidableEq, Repr

/-- The operand as a 32-bit word where it fits, signed or unsigned (log 13). -/
def sampleWord (x : Int) : Option Word :=
  if -2147483648 ≤ x ∧ x < 4294967296 then some (BitVec.ofInt 32 x) else none

/-- The two host writes of a pair directive; none where the address or a sample does not fit its field (R86). -/
def pairWrites (space : BitVec 2) (i : Nat) (l r : Int) : Option (List HostAction) :=
  if 2 * i + 1 < 1048576 then
    match sampleWord l, sampleWord r with
    | some vl, some vr =>
      some [.hostWrite space (BitVec.ofNat 20 (2 * i)) vl, .hostWrite space (BitVec.ofNat 20 (2 * i + 1)) vr]
    | _, _ => none
  else none

/-- The host actions of a line (R86, R87); none is an assembler error. -/
def AsmLine.actions : AsmLine → Option (List HostAction)
  | .blank => some []
  | .instr i => (assembleInstr i).map fun w => [.command w]
  | .pseudo p => (assembleInstr p.expand).map fun w => [.command w]
  | .rawWord w => if w < 4294967296 then some [.command (BitVec.ofNat 32 w)] else none
  | .mix i l r => pairWrites 0 i l r
  | .dry i l r => pairWrites 1 i l r
  | .reset => some [.hardReset]

/-- White space inside a line (log 13). -/
def isSpace (c : Char) : Bool := c == ' ' || c == '\t'

/-- Drop leading white space. -/
def trimLeft (cs : List Char) : List Char := cs.dropWhile isSpace

/-- Drop leading and trailing white space. -/
def trim (cs : List Char) : List Char := (trimLeft (trimLeft cs).reverse).reverse

/-- Split at every `sep`. -/
def splitAtChar (sep : Char) : List Char → List (List Char)
  | [] => [[]]
  | c :: cs =>
    if c == sep then [] :: splitAtChar sep cs
    else
      match splitAtChar sep cs with
      | [] => [[c]]
      | p :: ps => (c :: p) :: ps

/-- The value of a digit, hexadecimal letters in either case. -/
def digitValue (c : Char) : Option Nat :=
  let n := c.toNat
  if 48 ≤ n ∧ n ≤ 57 then some (n - 48)
  else if 65 ≤ n ∧ n ≤ 70 then some (n - 55)
  else if 97 ≤ n ∧ n ≤ 102 then some (n - 87)
  else none

/-- Read digits in a base after the value read so far. -/
def readDigits (base : Nat) : Nat → List Char → Option Nat
  | acc, [] => some acc
  | acc, c :: cs =>
    match digitValue c with
    | some d => if d < base then readDigits base (acc * base + d) cs else none
    | none => none

/-- A number of R86: decimal or `0x` hexadecimal. -/
def readNat : List Char → Option Nat
  | [] => none
  | '0' :: 'x' :: c :: cs => readDigits 16 0 (c :: cs)
  | c :: cs => readDigits 10 0 (c :: cs)

/-- A number with an optional minus sign, for sample operands (log 13). -/
def readInt : List Char → Option Int
  | '-' :: cs => (readNat cs).map fun n => -(n : Int)
  | cs => (readNat cs).map fun n => (n : Int)

/-- The value of a flag's name (R86). -/
def flagNamed (cs : List Char) : Option Nat :=
  if cs = ['R', 'V', 'B'] then some 1
  else if cs = ['S', 'U', 'R'] then some 2
  else if cs = ['B', 'A', 'S', 'S'] then some 4
  else if cs = ['N', 'R'] then some 8
  else none

/-- The OR of a list of flags' names. -/
def flagList : List (List Char) → Option Nat
  | [] => some 0
  | p :: ps =>
    match flagNamed (trim p), flagList ps with
    | some a, some b => some (a ||| b)
    | _, _ => none

/-- The operand of `SETCFG` (R86): a number, or a list of names separated by bars. -/
def readFlags (cs : List Char) : Option Nat :=
  match readNat cs with
  | some n => some n
  | none => flagList (splitAtChar '|' cs)

/-- A line whose operands have been separated at their commas. -/
def readLine (mnemonic : List Char) (ops : List (List Char)) : Option AsmLine :=
  match ops with
  | [] =>
    if mnemonic = [] then some .blank
    else if mnemonic = ['.', 'r', 'e', 's', 'e', 't'] then some .reset
    else if mnemonic = ['R', 'E', 'S', 'E', 'T', 'D', 'S', 'P'] then some (.pseudo .resetdsp)
    else if mnemonic = ['R', 'E', 'I', 'N', 'I', 'T'] then some (.pseudo .reinit)
    else if mnemonic = ['D', 'I', 'S', 'A', 'B', 'L', 'E'] then some (.pseudo .disable)
    else none
  | [a] =>
    if mnemonic = ['I', 'N', 'I', 'T'] then (readNat a).map fun n => .instr (.init n)
    else if mnemonic = ['P', 'R', 'O', 'C'] then (readNat a).map fun n => .instr (.proc n)
    else if mnemonic = ['S', 'E', 'T', 'C', 'F', 'G'] then (readFlags a).map fun n => .instr (.setcfg n)
    else if mnemonic = ['S', 'E', 'T', 'R', 'A', 'T', 'E'] then (readNat a).map fun n => .instr (.setrate n)
    else if mnemonic = ['.', 'w', 'o', 'r', 'd'] then (readNat a).map .rawWord
    else none
  | [a, b] =>
    match readNat a, readNat b with
    | some m, some n =>
      if mnemonic = ['S', 'E', 'T', 'R', 'V', 'B'] then some (.instr (.setrvb m n))
      else if mnemonic = ['S', 'E', 'T', 'B', 'A', 'S', 'S'] then some (.instr (.setbass m n))
      else if mnemonic = ['S', 'E', 'T', 'S', 'U', 'R'] then some (.instr (.setsur m n))
      else none
    | _, _ => none
  | [a, b, c] =>
    match readNat a, readInt b, readInt c with
    | some i, some l, some r =>
      if mnemonic = ['.', 'm', 'i', 'x'] then some (.mix i l r)
      else if mnemonic = ['.', 'd', 'r', 'y'] then some (.dry i l r)
      else none
    | _, _, _ => none
  | _ => none

/-- The operands of a line: none for white space alone, else separated by commas (R86). -/
def operandTexts (cs : List Char) : List (List Char) :=
  if trim cs = [] then [] else (splitAtChar ',' cs).map trim

/-- One line of text (R86): `;` starts a comment. -/
def parseLine (cs : List Char) : Option AsmLine :=
  let body := trimLeft (cs.takeWhile (· != ';'))
  readLine (body.takeWhile fun c => !isSpace c) (operandTexts (body.dropWhile fun c => !isSpace c))

/-- The host actions of a program, line after line; none is an assembler error. -/
def assembleLines : List (List Char) → Option (List HostAction)
  | [] => some []
  | l :: ls =>
    match (parseLine l).bind AsmLine.actions, assembleLines ls with
    | some as, some bs => some (as ++ bs)
    | _, _ => none

end Sys2Proof.Machine
end

