-- ==== Sys2Proof/Safety.lean ====
section
/-! DEFINITION. What counts as a good state and a safe step: the invariants 10_state.md states (R29 to R32, R37, R38), those
46_parameter_setters.md R216 and 45_noise_reduction.md R201 derive, and the canonical form of the memories. -/

namespace Sys2Proof.Machine

/-- The running-sum invariant of one filter over the whole capacity of its ring (R37). -/
abbrev SumRing.holds {w : Nat} (cap : Nat) (f : SumRing w) : Prop := f.sum = wrap32 (ringTotal f.mem cap)

/-- R37: the invariant of the five running-sum filters. -/
structure State.SumsHold (s : State) : Prop where
  rlf : s.rvb.rlf.holds 64
  rlp : s.rvb.rlp.holds 8
  dhf : s.sur.dhf.holds 64
  dlf : s.sur.dlf.holds 64
  bxr : s.bass.bxr.holds bassRingCap

/-- R38: every position below its ring's capacity, every size at most it, the bass mask one less than a power of two at most
`BASS_RING_CAP`, and the two bass positions equal. -/
structure State.BoundsHold (s : State) : Prop where
  rv1 : s.rvb.rv1.pos.toNat < config.maxReverb
  rv2 : s.rvb.rv2.pos.toNat < config.maxReverb2
  rv3 : s.rvb.rv3.pos.toNat < config.maxReverb3
  rv4 : s.rvb.rv4.pos.toNat < config.maxReverb4
  rlf : s.rvb.rlf.pos.toNat < 64
  rld : s.rvb.rld.pos.toNat < 32
  rlp : s.rvb.rlp.pos.toNat < 8
  size1 : s.rvb.size1.toNat ≤ config.maxReverb
  size2 : s.rvb.size2.toNat ≤ config.maxReverb2
  size3 : s.rvb.size3.toNat ≤ config.maxReverb3
  size4 : s.rvb.size4.toNat ≤ config.maxReverb4
  sur : s.sur.sur.pos.toNat < config.maxSurround
  dhf : s.sur.dhf.pos.toNat < 64
  dlf : s.sur.dlf.pos.toNat < 64
  dld : s.sur.dld.pos.toNat < 32
  surSize : s.sur.size.toNat ≤ config.maxSurround
  mask : ∃ k, s.bass.mask.toNat + 1 = 2 ^ k ∧ 2 ^ k ≤ bassRingCap
  bxr : s.bass.bxr.pos.toNat < bassRingCap
  bxd : s.bass.bxd.pos.toNat < bassRingCap
  samePos : s.bass.bxr.pos = s.bass.bxd.pos

/-- Every memory is in canonical form: the thirteen rings at their capacities (R34), the two buffers (R36). -/
structure State.MemCanonical (s : State) : Prop where
  bxr : Memory.wf bassRingCap (some 0) s.bass.bxr.mem
  bxd : Memory.wf (2 * bassRingCap) (some 0) s.bass.bxd.mem
  dlf : Memory.wf 64 (some 0) s.sur.dlf.mem
  dhf : Memory.wf 64 (some 0) s.sur.dhf.mem
  dld : Memory.wf 32 (some 0) s.sur.dld.mem
  sur : Memory.wf config.maxSurround (some 0) s.sur.sur.mem
  rv1 : Memory.wf config.maxReverb (some 0) s.rvb.rv1.mem
  rv2 : Memory.wf config.maxReverb2 (some 0) s.rvb.rv2.mem
  rv3 : Memory.wf config.maxReverb3 (some 0) s.rvb.rv3.mem
  rv4 : Memory.wf config.maxReverb4 (some 0) s.rvb.rv4.mem
  rlf : Memory.wf 64 (some 0) s.rvb.rlf.mem
  rld : Memory.wf 32 (some 0) s.rvb.rld.mem
  rlp : Memory.wf 8 (some 0) s.rvb.rlp.mem
  mix : Memory.wf bufferSize none s.mix
  dry : Memory.wf bufferSize none s.dry

/-- R29: the legal values of the six parameter registers. -/
structure State.ParamsLegal (s : State) : Prop where
  rvbDepth : s.rvbDepth.toNat ≤ 4
  rvbDelay : 40 ≤ s.rvbDelay.toNat ∧ s.rvbDelay.toNat ≤ 250
  bassDepth : 2 ≤ s.bassDepth.toNat ∧ s.bassDepth.toNat ≤ 8
  bassRange : s.bassRange.toNat = 14 ∨ 16 ≤ s.bassRange.toNat ∧ s.bassRange.toNat ≤ 21
  surDepth : 1 ≤ s.surDepth.toNat ∧ s.surDepth.toNat ≤ 16
  surDelay : 4 ≤ s.surDelay.toNat ∧ s.surDelay.toNat ≤ 50

/-- R30 to R32: the ranges of `RVB_ATTN`, `SUR_MULT`, `BASS_SHIFT`. -/
structure State.ActiveLegal (s : State) : Prop where
  attn : s.rvb.attn.toNat ≤ 5
  mult : s.sur.mult.toNat ≤ 16
  shift : s.bass.shift = 0 ∨ 3 ≤ s.bass.shift.toNat ∧ s.bass.shift.toNat ≤ 9

/-- R216, R141 (b), R161 (b): an enabled stage's active registers have been set for it; a disabled stage's sizes are 0. -/
structure State.StagesReady (s : State) : Prop where
  rvbOn : flagRvb s.flags = true → 1 ≤ s.rvb.attn.toNat
  surOn : flagSur s.flags = true → 2 ≤ s.sur.mult.toNat
  bassOn : flagBass s.flags = true → 3 ≤ s.bass.shift.toNat
  rvbOff : flagRvb s.flags = false → s.rvb.size1 = 0 ∧ s.rvb.size2 = 0 ∧ s.rvb.size3 = 0 ∧ s.rvb.size4 = 0
  surOff : flagSur s.flags = false → s.sur.size = 0
  bassOff : flagBass s.flags = false → s.bass.mask = 0

/-- R25, R26, R254: cause and information are 0 until a fault, the cause is not 0 after one. -/
structure State.StatusLegal (s : State) : Prop where
  clear : s.fault = false → s.cause = 0 ∧ s.faultInfo = 0
  latched : s.fault = true → s.cause ≠ 0

/-- R201 (b): each noise-reduction scalar is half of a 32-bit value. -/
structure State.NoiseHalved (s : State) : Prop where
  left : -1073741824 ≤ s.nr.left.toInt ∧ s.nr.left.toInt < 1073741824
  right : -1073741824 ≤ s.nr.right.toInt ∧ s.nr.right.toInt < 1073741824

/-- The invariant of the machine. -/
structure State.Inv (s : State) : Prop where
  sums : s.SumsHold
  bounds : s.BoundsHold
  mem : s.MemCanonical
  params : s.ParamsLegal
  active : s.ActiveLegal
  ready : s.StagesReady
  status : s.StatusLegal
  noise : s.NoiseHalved

/-- A step that does not stop: every host action completes (R17). The spec's own faults are next states (R254). -/
def State.Steps (s : State) : Prop := ∃ t, step s = .next t

/-- The registers a stage reads that only `INIT` writes (R133): sizes, masks, attenuation, multiplier, shift. -/
structure SameActive (s t : State) : Prop where
  size1 : t.rvb.size1 = s.rvb.size1
  size2 : t.rvb.size2 = s.rvb.size2
  size3 : t.rvb.size3 = s.rvb.size3
  size4 : t.rvb.size4 = s.rvb.size4
  attn : t.rvb.attn = s.rvb.attn
  surSize : t.sur.size = s.sur.size
  mult : t.sur.mult = s.sur.mult
  mask : t.bass.mask = s.bass.mask
  shift : t.bass.shift = s.bass.shift

/-- The six parameter registers (R29) are the same. -/
structure SameParams (s t : State) : Prop where
  rvbDepth : t.rvbDepth = s.rvbDepth
  rvbDelay : t.rvbDelay = s.rvbDelay
  bassDepth : t.bassDepth = s.bassDepth
  bassRange : t.bassRange = s.bassRange
  surDepth : t.surDepth = s.surDepth
  surDelay : t.surDelay = s.surDelay

/-- The history of all four stages (R19) is the same: rings as they read, positions, sums, noise-reduction scalars. -/
structure SameHistory (s t : State) : Prop where
  rvb : t.rvb = s.rvb
  sur : t.sur = s.sur
  bass : t.bass = s.bass
  nr : t.nr = s.nr

end Sys2Proof.Machine
end

