-- ==== Sys2Proof/Safety/InitSpecs.lean ====
section
/-! DEFINITION. What `INIT` leaves, part by part (R121 to R129), as relations between the state before and the state after,
with the default parameters of R7 written as numbers, for the statements to name. -/

namespace Sys2Proof.Machine

/-- Every entry of a ring is 0. -/
def RingZero (m : Memory) : Prop := ∀ j, ringRead m j = 0

/-- A delay line with every entry and its position 0. -/
def LineCleared {w : Nat} (r : Ring w) : Prop := RingZero r.mem ∧ r.pos = 0

/-- A running-sum filter with every entry, its position and its sum 0. -/
def FilterCleared {w : Nat} (f : SumRing w) : Prop := RingZero f.mem ∧ f.pos = 0 ∧ f.sum = 0

/-- R126: the reverb history is cleared. -/
def ReverbCleared (h : Reverb) : Prop :=
  LineCleared h.rv1 ∧ LineCleared h.rv2 ∧ LineCleared h.rv3 ∧ LineCleared h.rv4 ∧
    FilterCleared h.rlf ∧ LineCleared h.rld ∧ FilterCleared h.rlp

/-- R127: the surround history is cleared. -/
def SurroundCleared (h : Surround) : Prop :=
  LineCleared h.sur ∧ FilterCleared h.dhf ∧ FilterCleared h.dlf ∧ LineCleared h.dld

/-- R128: the bass history is cleared. -/
def BassCleared (h : Bass) : Prop := FilterCleared h.bxr ∧ LineCleared h.bxd

/-- R129: the noise-reduction scalars are cleared. -/
def NoiseCleared (h : Noise) : Prop := h.left = 0 ∧ h.right = 0

/-- R131: every history is cleared. -/
def HistoryCleared (s : State) : Prop :=
  ReverbCleared s.rvb ∧ SurroundCleared s.sur ∧ BassCleared s.bass ∧ NoiseCleared s.nr

/-- R121: the parameter registers of `t` are those of `s` sanitised. -/
def Sanitised (s t : State) : Prop :=
  t.rvbDepth = s.rvbDepth ∧ t.surDepth = s.surDepth ∧
    t.rvbDelay = (if s.rvbDelay = 0 then 100 else s.rvbDelay) ∧
    t.bassRange = (if s.bassRange = 0 then 14 else s.bassRange) ∧
    t.surDelay = (if s.surDelay = 0 then 20 else s.surDelay) ∧
    t.bassDepth.toNat = min (max s.bassDepth.toNat 2) 8

/-- R122: the reverb part of `INIT`, with the flags `f`; `t`'s parameters are the sanitised ones (R121). -/
def ReverbInitialised (reset : Bool) (f : BitVec 4) (s t : State) : Prop :=
  let n := min (t.rvbDelay.toNat * s.rate.toNat / 1000) 10000
  let a := s.rvbDepth.toNat + 1
  if f.getLsbD 0 then
    if reset = true ∨ n ≠ s.rvb.size1.toNat ∨ a ≠ s.rvb.attn.toNat then
      t.rvb.attn.toNat = a ∧ t.rvb.size1.toNat = n ∧
        t.rvb.size2.toNat = min (n * 13 / 17) 7647 ∧
        t.rvb.size3.toNat = min (n * 7 / 13) 5384 ∧
        t.rvb.size4.toNat = min (n * 7 / 19) 3684 ∧ ReverbCleared t.rvb
    else t.rvb = s.rvb
  else
    t.rvb.size1 = 0 ∧ t.rvb.size2 = 0 ∧ t.rvb.size3 = 0 ∧ t.rvb.size4 = 0 ∧ t.rvb.attn = s.rvb.attn ∧
      if reset then ReverbCleared t.rvb
      else t.rvb = { s.rvb with size1 := 0, size2 := 0, size3 := 0, size4 := 0 }

/-- The row `SUR_MULT` of R132's table, by depth 0 to 16; 16 beyond. -/
def surMultTable : List Nat := [16, 12, 10, 9, 8, 8, 8, 8, 2, 3, 5, 7, 9, 10, 12, 14, 16]

/-- R123: the surround part of `INIT`. -/
def SurroundInitialised (reset : Bool) (f : BitVec 4) (s t : State) : Prop :=
  let n := min (t.surDelay.toNat * s.rate.toNat / 1000) 2500
  if f.getLsbD 1 then
    t.sur.mult.toNat = surMultTable.getD s.surDepth.toNat 16 ∧
      if reset = true ∨ n ≠ s.sur.size.toNat then t.sur.size.toNat = n ∧ SurroundCleared t.sur
      else t.sur = { s.sur with mult := t.sur.mult }
  else
    t.sur.size = 0 ∧ t.sur.mult = s.sur.mult ∧
      if reset then SurroundCleared t.sur else t.sur = { s.sur with size := 0 }

/-- R124, R134: the bass part of `INIT`; `m` is the one value `2^k − 1` that `MASK` gives for the window (R100). -/
def BassInitialised (reset : Bool) (f : BitVec 4) (s t : State) : Prop :=
  let m := maskOf (min (s.rate.toNat * t.bassRange.toNat / 10000) 64)
  if f.getLsbD 2 then
    t.bass.shift.toNat = t.bassDepth.toNat + 1 ∧
      if reset = true ∨ m ≠ s.bass.mask.toNat then t.bass.mask.toNat = m ∧ BassCleared t.bass
      else t.bass = { s.bass with shift := t.bass.shift }
  else
    t.bass.mask = 0 ∧ t.bass.shift = s.bass.shift ∧
      if reset then BassCleared t.bass else t.bass = { s.bass with mask := 0 }

/-- R125: the noise-reduction part of `INIT`. -/
def NoiseInitialised (reset : Bool) (s t : State) : Prop :=
  if reset then NoiseCleared t.nr else t.nr = s.nr

/-- R120: what `INIT` never writes is as it was. -/
def InitFramed (f : BitVec 4) (s t : State) : Prop :=
  t = { s with
    flags := f, rvbDelay := t.rvbDelay, bassDepth := t.bassDepth, bassRange := t.bassRange, surDelay := t.surDelay,
    rvb := t.rvb, sur := t.sur, bass := t.bass, nr := t.nr }

/-- The same relation for both commands that run `INIT`: `INIT reset` with the flags as they are (R120), `SETCFG flags` with
the new flags and `reset = 0` (R216). Both answer a next state. -/
def BothInit (s : State) (P : Bool → BitVec 4 → State → Prop) : Prop :=
  (∀ reset, reset < 2 → ∃ t, exec (.init reset) s = .next t ∧ P (reset == 1) s.flags t) ∧
    ∀ flags, flags < 16 → ∃ t, exec (.setcfg flags) s = .next t ∧ P false (BitVec.ofNat 4 flags) t

/-- The command runs `INIT`: `INIT` itself, or `SETCFG`, whose second half is `INIT 0` (R216). -/
def RunsInit (i : Instr) : Prop := (∃ reset, i = .init reset) ∨ ∃ flags, i = .setcfg flags

/-- R130: `FLAGS`, `RATE` and the six parameter registers are the same. -/
structure SameConfiguration (s t : State) : Prop where
  flags : t.flags = s.flags
  rate : t.rate = s.rate
  params : SameParams s t

/-- The parameters are legal (R29) and every active register that `INIT` compares or rewrites is the one the configuration
gives: the lengths, the attenuation, the mask, the multiplier and the shift of an enabled stage (R122 to R124), the forced
zeros of a disabled one. -/
structure State.Settled (s : State) : Prop where
  params : s.ParamsLegal
  rvbOn : flagRvb s.flags = true →
    s.rvb.size1.toNat = min (s.rvbDelay.toNat * s.rate.toNat / 1000) 10000 ∧ s.rvb.attn.toNat = s.rvbDepth.toNat + 1
  surOn : flagSur s.flags = true →
    s.sur.size.toNat = min (s.surDelay.toNat * s.rate.toNat / 1000) 2500 ∧
      s.sur.mult.toNat = surMultTable.getD s.surDepth.toNat 16
  bassOn : flagBass s.flags = true →
    s.bass.mask.toNat = maskOf (min (s.rate.toNat * s.bassRange.toNat / 10000) 64) ∧
      s.bass.shift.toNat = s.bassDepth.toNat + 1
  rvbOff : flagRvb s.flags = false → s.rvb.size1 = 0 ∧ s.rvb.size2 = 0 ∧ s.rvb.size3 = 0 ∧ s.rvb.size4 = 0
  surOff : flagSur s.flags = false → s.sur.size = 0
  bassOff : flagBass s.flags = false → s.bass.mask = 0

end Sys2Proof.Machine
end

