-- ==== Sys2Proof/Safety/HostSpecs.lean ====
section
/-! DEFINITION. What the host sees (20_memory.md, 60_exceptions.md, 70_reset_and_hazards.md), written from the rules with
the default parameters of R7 as numbers, for the statements to name. -/

namespace Sys2Proof.Machine

/-- R84: `w` is no command: opcode 0 or 8 to 15, or a 1 in a reserved bit of its opcode's format. -/
def IllegalWord (w : Word) : Prop :=
  bits w 31 28 = 0 ∨ 8 ≤ bits w 31 28 ∨
    (bits w 31 28 = 1 ∧ bits w 27 1 ≠ 0) ∨ (bits w 31 28 = 2 ∧ bits w 27 16 ≠ 0) ∨
    (bits w 31 28 = 3 ∧ bits w 27 24 ≠ 0) ∨ (bits w 31 28 = 4 ∧ bits w 27 24 ≠ 0) ∨
    (bits w 31 28 = 5 ∧ bits w 27 24 ≠ 0) ∨ (bits w 31 28 = 6 ∧ bits w 27 4 ≠ 0) ∨
    (bits w 31 28 = 7 ∧ bits w 27 20 ≠ 0)

/-- R64: the defined `CSR` addresses. -/
def csrAddresses : List Nat := List.range' 0x00 10 ++ List.range' 0x10 14 ++ List.range' 0x20 8 ++ List.range' 0x30 5 ++ [0x38, 0x39]

/-- R34: the capacities of the thirteen rings, by id. -/
def ringCapacities : List Nat := [128, 256, 64, 64, 32, 2500, 10000, 7647, 5384, 3684, 64, 32, 8]

/-- R64 to R66: the host reads the architecture accepts. -/
def ReadAccepted (space : BitVec 2) (addr : BitVec 20) : Prop :=
  (space.toNat ≤ 1 ∧ addr.toNat < 1024) ∨ (space = 2 ∧ addr.toNat ∈ csrAddresses) ∨
    (space = 3 ∧ addr.toNat % 65536 < ringCapacities.getD (addr.toNat / 65536) 0)

/-- R64 to R66: the host writes it accepts. -/
def WriteAccepted (space : BitVec 2) (addr : BitVec 20) : Prop := space.toNat ≤ 1 ∧ addr.toNat < 1024

/-- R64 with R25 to R33: the register at a defined `CSR` address, as a natural number of its own width. -/
def csrNat (s : State) (a : Nat) : Nat :=
  match a with
  | 0x00 => s.fault.toNat + 2 * s.cause.toNat
  | 0x01 => s.faultInfo.toNat
  | 0x02 => s.flags.toNat
  | 0x03 => s.rate.toNat
  | 0x04 => s.rvbDepth.toNat
  | 0x05 => s.rvbDelay.toNat
  | 0x06 => s.bassDepth.toNat
  | 0x07 => s.bassRange.toNat
  | 0x08 => s.surDepth.toNat
  | 0x09 => s.surDelay.toNat
  | 0x10 => s.rvb.size1.toNat
  | 0x11 => s.rvb.size2.toNat
  | 0x12 => s.rvb.size3.toNat
  | 0x13 => s.rvb.size4.toNat
  | 0x14 => s.rvb.attn.toNat
  | 0x15 => s.rvb.rv1.pos.toNat
  | 0x16 => s.rvb.rv2.pos.toNat
  | 0x17 => s.rvb.rv3.pos.toNat
  | 0x18 => s.rvb.rv4.pos.toNat
  | 0x19 => s.rvb.rlf.pos.toNat
  | 0x1A => s.rvb.rlf.sum.toNat
  | 0x1B => s.rvb.rld.pos.toNat
  | 0x1C => s.rvb.rlp.pos.toNat
  | 0x1D => s.rvb.rlp.sum.toNat
  | 0x20 => s.sur.size.toNat
  | 0x21 => s.sur.mult.toNat
  | 0x22 => s.sur.sur.pos.toNat
  | 0x23 => s.sur.dhf.pos.toNat
  | 0x24 => s.sur.dhf.sum.toNat
  | 0x25 => s.sur.dlf.pos.toNat
  | 0x26 => s.sur.dlf.sum.toNat
  | 0x27 => s.sur.dld.pos.toNat
  | 0x30 => s.bass.mask.toNat
  | 0x31 => s.bass.shift.toNat
  | 0x32 => s.bass.bxr.pos.toNat
  | 0x33 => s.bass.bxr.sum.toNat
  | 0x34 => s.bass.bxd.pos.toNat
  | 0x38 => s.nr.left.toNat
  | _ => s.nr.right.toNat

/-- R34: the contents of the thirteen rings, by id. -/
def ringContents (s : State) : List Memory :=
  [s.bass.bxr.mem, s.bass.bxd.mem, s.sur.dlf.mem, s.sur.dhf.mem, s.sur.dld.mem, s.sur.sur.mem, s.rvb.rv1.mem, s.rvb.rv2.mem,
    s.rvb.rv3.mem, s.rvb.rv4.mem, s.rvb.rlf.mem, s.rvb.rld.mem, s.rvb.rlp.mem]

/-- R64 to R66: `v` is the word an accepted host read addresses. -/
def AddressedWord (s : State) (space : BitVec 2) (addr : BitVec 20) (v : Word) : Prop :=
  if space = 0 then v = mixWord s addr.toNat
  else if space = 1 then v = dryWord s addr.toNat
  else if space = 2 then v.toNat = csrNat s addr.toNat
  else v = ringRead ((ringContents s).getD (addr.toNat / 65536) []) (addr.toNat % 65536)

/-- R250: the action raises a fault of cause `c` with information `info`. -/
def RaisesFault (a : HostAction) (c info : Nat) : Prop :=
  match a with
  | .hardReset => False
  | .command w =>
    (IllegalWord w ∧ c = 1 ∧ info = w.toNat) ∨
      (¬IllegalWord w ∧ bits w 31 28 = 2 ∧ 512 < bits w 15 0 ∧ c = 2 ∧ info = w.toNat)
  | .hostWrite space addr _ => ¬WriteAccepted space addr ∧ c = 3 ∧ info = space.toNat * 2 ^ 20 + addr.toNat
  | .hostRead space addr => ¬ReadAccepted space addr ∧ c = 3 ∧ info = space.toNat * 2 ^ 20 + addr.toNat

/-- The action runs `INIT` or resets the machine. -/
def HostAction.reconfigures : HostAction → Prop
  | .hardReset => True
  | .command w => ∃ i, decode w = .ok i ∧ RunsInit i
  | _ => False

/-- The action returns a value to the host. -/
def HostAction.isRead : HostAction → Bool
  | .hostRead _ _ => true
  | _ => false

/-- A sample operand of the assembler fits 32 bits, signed or unsigned (log 13). -/
def SampleFits (x : Int) : Prop := -(2 ^ 31) ≤ x ∧ x < 2 ^ 32

/-- R270: every register, position, sum and ring at its value after hard reset; nothing is said of `MIX` and `DRY`. -/
def HardResetValues (t : State) : Prop :=
  t.fault = false ∧ t.cause = 0 ∧ statusWord t = 0 ∧ t.faultInfo = 0 ∧ t.flags = 0 ∧ t.rate.toNat = 44100 ∧
    t.rvbDepth.toNat = 1 ∧ t.rvbDelay.toNat = 100 ∧ t.bassDepth.toNat = 6 ∧ t.bassRange.toNat = 14 ∧
    t.surDepth.toNat = 12 ∧ t.surDelay.toNat = 20 ∧
    t.rvb.size1 = 0 ∧ t.rvb.size2 = 0 ∧ t.rvb.size3 = 0 ∧ t.rvb.size4 = 0 ∧ t.rvb.attn = 0 ∧
    t.sur.size = 0 ∧ t.sur.mult = 0 ∧ t.bass.mask = 0 ∧ t.bass.shift = 0 ∧ HistoryCleared t

end Sys2Proof.Machine
end

