-- ==== Sys2Proof/Safety/StageSpecs.lean ====
section
/-! DEFINITION. The rules of the ring components and of the four stage steps as relations between the state before and the
state after, in exact integers with `wrap32` and floor division (R10, R11), for the statements to name. They read rings
and buffers entry by entry and use none of the model's step functions. -/

namespace Sys2Proof.Machine

/-- Ring memory `m'` is `m` with entry `j` replaced by `v` and every other entry as it was. -/
def RingUpdated (m m' : Memory) (j : Nat) (v : Word) : Prop :=
  ∀ k, ringRead m' k = if k = j then v else ringRead m k

/-- R101: the position after an advance by mask. -/
def MaskAdvanced {w : Nat} (m : Nat) (p p' : BitVec w) : Prop := p'.toNat = (p.toNat + 1) &&& m

/-- R103: the position after an advance by size. -/
def SizeAdvanced {w : Nat} (n : Nat) (p p' : BitVec w) : Prop :=
  p'.toNat = if p.toNat + 1 ≥ n then 0 else p.toNat + 1

/-- The entry at a ring's current position, as an integer. -/
def tapInt {w : Nat} (r : Ring w) : Int := (ringRead r.mem r.pos.toNat).toInt

/-- The sum a running-sum filter holds after a step with `v` (R102). -/
def sumAfter {w : Nat} (f : SumRing w) (v : Word) : Word :=
  wrap32 (f.sum.toInt - (ringRead f.mem f.pos.toNat).toInt + v.toInt)

/-- `RSUM.STEP` (R102) from `f` to `f'` with mask `m` and value `v`. -/
def SumStepped {w : Nat} (m : Nat) (v : Word) (f f' : SumRing w) : Prop :=
  f'.sum = sumAfter f v ∧ RingUpdated f.mem f'.mem f.pos.toNat v ∧ MaskAdvanced m f.pos f'.pos

/-- A delay line with mask `m` stores `v` and advances (R101, R105). -/
def DelayMasked {w : Nat} (m : Nat) (v : Word) (r r' : Ring w) : Prop :=
  RingUpdated r.mem r'.mem r.pos.toNat v ∧ MaskAdvanced m r.pos r'.pos

/-- A delay line of configured size `n` stores `v` and advances (R103, R105). -/
def DelaySized {w : Nat} (n : Nat) (v : Word) (r r' : Ring w) : Prop :=
  RingUpdated r.mem r'.mem r.pos.toNat v ∧ SizeAdvanced n r.pos r'.pos

/-- `MIX` in `t` is `MIX` in `s` with pair `i` replaced by `(l, r)` and every other word as it was (R15, R61). -/
def PairWritten (i : Nat) (l r : Word) (s t : State) : Prop :=
  ∀ j, mixWord t j = if j = 2 * i then l else if j = 2 * i + 1 then r else mixWord s j

/-- `RVB.STEP(i)` (R141) from `s` to `t`. -/
def ReverbStepped (i : Nat) (s t : State) : Prop :=
  let h := s.rvb
  let dL := (dryWord s (2 * i)).toInt
  let dR := (dryWord s (2 * i + 1)).toInt
  let echo := wrap32 (tapInt h.rv1 + tapInt h.rv2 + tapInt h.rv3 + tapInt h.rv4)
  let half := wrap32 (echo.toInt / 2 ^ 1)
  let dec := wrap32 (echo.toInt / 2 ^ 7)
  let echodly := wrap32 (tapInt h.rld - (sumAfter h.rlf dec).toInt)
  let v1 := wrap32 ((wrap32 (dL + dR)).toInt / 2 ^ h.attn.toNat + echodly.toInt / 2 ^ 2)
  let v2 := wrap32 ((wrap32 (v1.toInt + echodly.toInt / 2 ^ 4)).toInt / 2 ^ 1)
  let vlp := wrap32 ((sumAfter h.rlp v2).toInt / 2 ^ 2)
  PairWritten i (wrap32 ((mixWord s (2 * i)).toInt + dL + echodly.toInt))
      (wrap32 ((mixWord s (2 * i + 1)).toInt + dR + echodly.toInt)) s t ∧
    DelayMasked 0x1F half h.rld t.rvb.rld ∧
    SumStepped 0x3F dec h.rlf t.rvb.rlf ∧
    SumStepped 7 v2 h.rlp t.rvb.rlp ∧
    DelaySized h.size1.toNat vlp h.rv1 t.rvb.rv1 ∧
    DelaySized h.size2.toNat vlp h.rv2 t.rvb.rv2 ∧
    DelaySized h.size3.toNat v1 h.rv3 t.rvb.rv3 ∧
    DelaySized h.size4.toNat v1 h.rv4 t.rvb.rv4 ∧
    t = { s with
      mix := t.mix
      rvb := { h with
        rld := t.rvb.rld, rlf := t.rvb.rlf, rlp := t.rvb.rlp
        rv1 := t.rvb.rv1, rv2 := t.rvb.rv2, rv3 := t.rvb.rv3, rv4 := t.rvb.rv4 } }

/-- `SUR.STEP(i)` (R161) from `s` to `t`, with the default `DOLBY_ROUND`, `DOLBY_SHIFT`, `DOLBY_LO_SHIFT` (R7). -/
def SurroundStepped (i : Nat) (s t : State) : Prop :=
  let h := s.sur
  let l := (mixWord s (2 * i)).toInt
  let r := (mixWord s (2 * i + 1)).toInt
  let m0 := (wrap32 (l + r + 31)).toInt / 2 ^ 7
  let m1 := wrap32 (m0 * h.mult.toNat)
  let secho := wrap32 (tapInt h.sur)
  let dec := wrap32 (tapInt h.sur / 2 ^ 6)
  let v := (wrap32 (tapInt h.dld - (sumAfter h.dlf dec).toInt)).toInt
  PairWritten i (wrap32 (l + v)) (wrap32 (r - v)) s t ∧
    SumStepped 0x3F m1 h.dhf t.sur.dhf ∧
    DelaySized h.size.toNat (sumAfter h.dhf m1) h.sur t.sur.sur ∧
    DelayMasked 0x1F secho h.dld t.sur.dld ∧
    SumStepped 0x3F dec h.dlf t.sur.dlf ∧
    t = { s with
      mix := t.mix
      sur := { h with sur := t.sur.sur, dhf := t.sur.dhf, dlf := t.sur.dlf, dld := t.sur.dld } }

/-- R181: the value `tmp` for a wrapped sum `t0` and shift `k`: the bias only for a negative sum, then the floor. -/
def bassTmp (t0 : Int) (k : Nat) : Int := (if t0 < 0 then t0 + (2 ^ k - 1) else t0) / 2 ^ k

/-- `BASS.STEP(i)` (R181) from `s` to `t`. -/
def BassStepped (i : Nat) (s t : State) : Prop :=
  let h := s.bass
  let l := mixWord s (2 * i)
  let r := mixWord s (2 * i + 1)
  let tmp := wrap32 (bassTmp (wrap32 (l.toInt + r.toInt)).toInt h.shift.toNat)
  let p := h.bxd.pos.toNat
  PairWritten i (wrap32 ((ringRead h.bxd.mem (2 * p)).toInt + (sumAfter h.bxr tmp).toInt))
      (wrap32 ((ringRead h.bxd.mem (2 * p + 1)).toInt + (sumAfter h.bxr tmp).toInt)) s t ∧
    SumStepped h.mask.toNat tmp h.bxr t.bass.bxr ∧
    (∀ k, ringRead t.bass.bxd.mem k = if k = 2 * p then l else if k = 2 * p + 1 then r else ringRead h.bxd.mem k) ∧
    MaskAdvanced h.mask.toNat h.bxd.pos t.bass.bxd.pos ∧
    t = { s with mix := t.mix, bass := { h with bxr := t.bass.bxr, bxd := t.bass.bxd } }

/-- `NR.STEP(i)` (R201) from `s` to `t`. -/
def NoiseStepped (i : Nat) (s t : State) : Prop :=
  let hL := (mixWord s (2 * i)).toInt / 2 ^ 1
  let hR := (mixWord s (2 * i + 1)).toInt / 2 ^ 1
  PairWritten i (wrap32 (hL + s.nr.left.toInt)) (wrap32 (hR + s.nr.right.toInt)) s t ∧
    t.nr.left = wrap32 hL ∧ t.nr.right = wrap32 hR ∧
    t = { s with mix := t.mix, nr := t.nr }

/-- All four steps on one pair, in the stages' order, those the flags enable: the body of a sample-major loop (R232). -/
def pairThroughAll (f : BitVec 4) (i : Nat) (s : State) : Option State :=
  (((if flagRvb f then rvbStepAt i s else some s).bind fun s1 =>
    if flagSur f then surStepAt i s1 else some s1).bind fun s2 =>
    if flagBass f then bassStepAt i s2 else some s2).bind fun s3 =>
    if flagNr f then nrStepAt i s3 else some s3

end Sys2Proof.Machine
end

