-- ==== Sys2Proof/Certificates/Slice0/Obligations.lean ====
section
/-! DEFINITION. The statements about this machine, from the numbered rules of spec/. OBLIGATIONS.json says which rule each
one formalises. -/

open Sys2Proof Sys2Proof.Machine

/-! ### The command word (30_encoding.md) -/

/-- R81, R83, R86: every well-formed command decodes back from its encoding, whatever its operands. -/
def Obligations.EncodedCommandsDecodeBack : Prop :=
  ∀ i : Instr, i.wellFormed = true → decode (encode i) = .ok i

/-- R80, R81, R83: a word that decodes gives a well-formed command whose encoding is that word. -/
def Obligations.DecodedWordsEncodeBack : Prop :=
  ∀ (w : Word) (i : Instr), decode w = .ok i → i.wellFormed = true ∧ encode i = w

/-- R82: a word is the command of a row of the opcode map exactly when it matches the row; no word matches two rows. -/
def Obligations.DecoderFollowsOpcodeMap : Prop :=
  ∀ w : Word, (∀ r ∈ opcodeMap, (∃ i, decode w = .ok i ∧ i.mnemonic = r.mnemonic) ↔ w &&& r.mask = r.pattern) ∧
    ∀ r ∈ opcodeMap, ∀ q ∈ opcodeMap, w &&& r.mask = r.pattern → w &&& q.mask = q.pattern → r = q

/-- R88: the worked encodings, word by word. -/
def Obligations.WorkedEncodingsDecode : Prop :=
  decode 0x10000001 = .ok (.init 1) ∧ decode 0x10000000 = .ok (.init 0) ∧ decode 0x20000004 = .ok (.proc 4) ∧
    decode 0x20000200 = .ok (.proc 512) ∧ decode 0x3096000A = .ok (.setrvb 150 10) ∧
    decode 0x40640032 = .ok (.setbass 100 50) ∧ decode 0x50640004 = .ok (.setsur 100 4) ∧
    decode 0x60000008 = .ok (.setcfg 8) ∧ decode 0x6000000F = .ok (.setcfg 15) ∧
    decode 0x7000AC44 = .ok (.setrate 44100) ∧ decode 0x700003E8 = .ok (.setrate 1000) ∧
    ∀ w ∈ [0x00000000, 0x10000002, 0x20010000, 0x31000000, 0x60000010, 0x70100000, 0x80000000, 0xFFFFFFFF],
      ∃ e, decode w = .error e

/-- R84, R251: which words are illegal, and what an illegal word does: `IllegalCommand` is recorded and nothing else happens. -/
def Obligations.IllegalWordsRaiseIllegalCommand : Prop :=
  (∀ w : Word, (∃ e, decode w = .error e) ↔ IllegalWord w) ∧
    (∀ w : Word, IllegalWord w ↔ ∀ r ∈ opcodeMap, w &&& r.mask ≠ r.pattern) ∧
    IllegalWord 0x00000000 ∧ IllegalWord 0xFFFFFFFF ∧
    ∀ (s : State) (w : Word) (rest : List HostAction), s.port = .command w :: rest → s.fault = false → IllegalWord w →
      ∃ t, step s = .next t ∧ statusWord t = 0x3 ∧
        t = { s with port := rest, reply := none, fault := true, cause := 1, faultInfo := w }

/-- R86, R87: the assembler gives the actions of every line whose operands fit their fields, and an error for every line
with one that does not; the pseudo-instructions are their expansions. R86 names no field for a sample operand: that one
fits where it is a 32-bit value, signed or unsigned, and that a pair index fits where its addresses fit 20 bits, are the
model's choices (log 13). -/
def Obligations.AssemblerGivesHostActions : Prop :=
  (∀ i : Instr, AsmLine.actions (.instr i) = if i.wellFormed then some [.command (encode i)] else none) ∧
    AsmLine.actions (.pseudo .resetdsp) = some [.command 0x10000001] ∧
    AsmLine.actions (.pseudo .reinit) = some [.command 0x10000000] ∧
    AsmLine.actions (.pseudo .disable) = some [.command 0x60000000] ∧
    AsmLine.actions .reset = some [.hardReset] ∧
    (∀ w : Nat, (w < 2 ^ 32 → AsmLine.actions (.rawWord w) = some [.command (BitVec.ofNat 32 w)]) ∧
      (2 ^ 32 ≤ w → AsmLine.actions (.rawWord w) = none)) ∧
    ∀ (i : Nat) (l r : Int),
      (i < 2 ^ 19 ∧ SampleFits l ∧ SampleFits r →
        AsmLine.actions (.mix i l r) = some
          [.hostWrite 0 (BitVec.ofNat 20 (2 * i)) (wrap32 l), .hostWrite 0 (BitVec.ofNat 20 (2 * i + 1)) (wrap32 r)] ∧
        AsmLine.actions (.dry i l r) = some
          [.hostWrite 1 (BitVec.ofNat 20 (2 * i)) (wrap32 l), .hostWrite 1 (BitVec.ofNat 20 (2 * i + 1)) (wrap32 r)]) ∧
      (¬(i < 2 ^ 19 ∧ SampleFits l ∧ SampleFits r) →
        AsmLine.actions (.mix i l r) = none ∧ AsmLine.actions (.dry i l r) = none)

/-! ### Steps, faults, reset (20_memory.md, 60_exceptions.md, 70_reset_and_hazards.md) -/

/-- R85: a step runs the decoded command. The step takes the command off the port and clears the reply, both the model's own
fields (logs 4 and 5); the command runs on that state. -/
def Obligations.StepRunsDecodedCommand : Prop :=
  ∀ (s : State) (w : Word) (i : Instr) (rest : List HostAction), s.port = .command w :: rest → s.fault = false →
    decode w = .ok i → i.wellFormed = true ∧ step s = exec i { s with port := rest, reply := none }

/-- R260: with nothing issued the core is idle and holds its state. That no action is a step of its own is the model's choice
(log 4). -/
def Obligations.IdleCoreHoldsState : Prop := ∀ s : State, s.port = [] → step s = .next s

/-- R255: in the faulted state commands and host writes are ignored, an accepted host read returns its word, a rejected one
returns 0, and none of them changes anything else. -/
def Obligations.FaultedStateOnlyServesReads : Prop :=
  ∀ (s : State) (rest : List HostAction), s.fault = true →
    (∀ w, s.port = .command w :: rest → step s = .next { s with port := rest, reply := none }) ∧
    (∀ space addr v, s.port = .hostWrite space addr v :: rest → step s = .next { s with port := rest, reply := none }) ∧
    (∀ space addr, s.port = .hostRead space addr :: rest → ReadAccepted space addr →
      ∃ v, AddressedWord s space addr v ∧ step s = .next { s with port := rest, reply := some v }) ∧
    (∀ space addr, s.port = .hostRead space addr :: rest → ¬ReadAccepted space addr →
      step s = .next { s with port := rest, reply := some 0 })

/-- R258: every action but `HardReset` leaves the fault recorded as it was; `HardReset` clears it and discards all history. -/
def Obligations.OnlyHardResetLeavesTheFaultedState : Prop :=
  ∀ (s : State) (a : HostAction) (rest : List HostAction), s.fault = true → s.port = a :: rest →
    ∃ t, step s = .next t ∧
      (a ≠ .hardReset → t.fault = true ∧ t.cause = s.cause ∧ t.faultInfo = s.faultInfo ∧ SameHistory s t) ∧
      (a = .hardReset → t.fault = false ∧ HistoryCleared t)

/-- R250, R253, R254: an action raises a fault exactly when the table says so; the fault records its cause and information and
changes nothing else; a faulting read returns 0. The action leaves the port and the reply is set, the model's own fields
(logs 4 and 5). -/
def Obligations.FaultsAreCompleteAndPrecise : Prop :=
  ∀ (s t : State) (a : HostAction) (rest : List HostAction), s.fault = false → s.port = a :: rest → step s = .next t →
    (t.fault = true ↔ ∃ c info, RaisesFault a c info) ∧
    ∀ c info, RaisesFault a c info →
      t.cause.toNat = c ∧ t.faultInfo.toNat = info ∧
        t = { s with
          port := rest, reply := if a.isRead then some 0 else none
          fault := true, cause := t.cause, faultInfo := t.faultInfo }

/-- R270: `HardReset` is accepted in every state and leaves every register, position, sum and ring at its reset value; the
bounds and the running sums hold then; no other action clears the fault. -/
def Obligations.HardResetRestoresResetValues : Prop :=
  ∀ (s : State) (rest : List HostAction),
    (s.port = .hardReset :: rest → ∃ t, step s = .next t ∧ HardResetValues t ∧ t.SumsHold ∧ t.BoundsHold) ∧
    ∀ a t, s.fault = true → s.port = a :: rest → a ≠ .hardReset → step s = .next t → t.fault = true

/-- R270 for the machine's state after reset. -/
def Obligations.MachineStartsAtResetValues : Prop := HardResetValues Sys2Proof.core.reset

/-- R66: host reads and writes of the two buffers: the addressed word, nothing else; beyond the buffer `BadHostAccess`. -/
def Obligations.HostAccessesBufferWords : Prop :=
  ∀ (s : State) (rest : List HostAction) (addr : BitVec 20) (v : Word),
    (s.fault = false → s.port = .hostWrite 0 addr v :: rest → addr.toNat < 1024 → ∃ t, step s = .next t ∧
      (∀ j, mixWord t j = if j = addr.toNat then v else mixWord s j) ∧
      t = { s with port := rest, reply := none, mix := t.mix }) ∧
    (s.fault = false → s.port = .hostWrite 1 addr v :: rest → addr.toNat < 1024 → ∃ t, step s = .next t ∧
      (∀ j, dryWord t j = if j = addr.toNat then v else dryWord s j) ∧
      t = { s with port := rest, reply := none, dry := t.dry }) ∧
    (s.port = .hostRead 0 addr :: rest → addr.toNat < 1024 →
      step s = .next { s with port := rest, reply := some (mixWord s addr.toNat) }) ∧
    (s.port = .hostRead 1 addr :: rest → addr.toNat < 1024 →
      step s = .next { s with port := rest, reply := some (dryWord s addr.toNat) }) ∧
    (∀ space : BitVec 2, s.fault = false → space.toNat ≤ 1 → 1024 ≤ addr.toNat →
      (s.port = .hostWrite space addr v :: rest ∨ s.port = .hostRead space addr :: rest) →
      ∃ t, step s = .next t ∧ t.fault = true ∧ t.cause = 3)

/-- R64: a read of the `CSR` space returns the register at that address, zero-extended; every other address and every write
raises `BadHostAccess`; a read changes nothing. -/
def Obligations.HostReadsRegisters : Prop :=
  ∀ (s : State) (rest : List HostAction) (addr : BitVec 20) (v : Word),
    (s.port = .hostRead 2 addr :: rest → addr.toNat ∈ csrAddresses → ∃ x, step s = .next { s with port := rest, reply := some x } ∧
      x.toNat = csrNat s addr.toNat) ∧
    (s.fault = false → (s.port = .hostRead 2 addr :: rest ∧ addr.toNat ∉ csrAddresses) ∨ s.port = .hostWrite 2 addr v :: rest →
      ∃ t, step s = .next t ∧ t.fault = true ∧ t.cause = 3)

/-- R65: a read of the `RING` space returns the addressed entry; a reserved id, an index beyond the capacity and every write
raise `BadHostAccess`; a read changes nothing. -/
def Obligations.HostReadsRingEntries : Prop :=
  ∀ (s : State) (rest : List HostAction) (id index : Nat) (v : Word), id < 16 → index < 65536 →
    (s.port = .hostRead 3 (BitVec.ofNat 20 (id * 65536 + index)) :: rest → id ≤ 12 → index < ringCapacities.getD id 0 →
      step s = .next { s with
        port := rest
        reply := some (ringRead
          ((ringContents s).getD id []) index) }) ∧
    (s.fault = false → (s.port = .hostRead 3 (BitVec.ofNat 20 (id * 65536 + index)) :: rest ∧ (12 < id ∨ ringCapacities.getD id 0 ≤ index)) ∨
        s.port = .hostWrite 3 (BitVec.ofNat 20 (id * 65536 + index)) v :: rest →
      ∃ t, step s = .next t ∧ t.fault = true ∧ t.cause = 3)

/-! ### Setters (46_parameter_setters.md) -/

/-- R211, R210: `SETRVB` sets its two registers to the clamped values and changes nothing else. -/
def Obligations.SetrvbTranslatesAndClamps : Prop :=
  ∀ (depth delayMs : Nat) (s : State), depth < 256 → delayMs < 65536 →
    ∃ t, exec (.setrvb depth delayMs) s = .next t ∧ t.rvbDepth.toNat = 4 - min (depth / 20) 4 ∧
      t.rvbDelay.toNat = min (max delayMs 40) 250 ∧ t = { s with rvbDepth := t.rvbDepth, rvbDelay := t.rvbDelay }

/-- R212, R213, R210: `SETBASS`, with the table of `BASSRANGE`. -/
def Obligations.SetbassTranslatesAndClamps : Prop :=
  ∀ (depth rangeHz : Nat) (s : State), depth < 256 → rangeHz < 65536 →
    ∃ t, exec (.setbass depth rangeHz) s = .next t ∧ t.bassDepth.toNat = 8 - min (depth / 20) 4 ∧
      t.bassRange.toNat =
        (if rangeHz < 30 then 21 else if rangeHz < 35 then 20 else if rangeHz < 40 then 19 else if rangeHz < 45 then 18
        else if rangeHz < 50 then 17 else 16) ∧
      t = { s with bassDepth := t.bassDepth, bassRange := t.bassRange }

/-- R214, R210: `SETSUR`. -/
def Obligations.SetsurTranslatesAndClamps : Prop :=
  ∀ (depth delayMs : Nat) (s : State), depth < 256 → delayMs < 65536 →
    ∃ t, exec (.setsur depth delayMs) s = .next t ∧ t.surDepth.toNat = min (max (depth * 16 / 100) 1) 16 ∧
      t.surDelay.toNat = min (max delayMs 4) 50 ∧ t = { s with surDepth := t.surDepth, surDelay := t.surDelay }

/-- R218: `SETRATE` stores the rate and changes nothing else. -/
def Obligations.SetrateStoresRate : Prop :=
  ∀ (rate : Nat) (s : State), rate < 2 ^ 20 →
    ∃ t, exec (.setrate rate) s = .next t ∧ t.rate.toNat = rate ∧ t = { s with rate := t.rate }

/-- R25 to R33, R62, R133, R216: which commands write which registers, register by register. `STATUS` and `FAULT_INFO`: only
the fault of `PROC`. `FLAGS`: only `SETCFG`. `RATE`: only `SETRATE`. A parameter: only its setter and, for four of them, the
sanitising of `INIT`, with what it stores. The active registers: only `INIT`. A stage's rings, positions and sums: only
`INIT` and a `PROC` with the stage enabled. `NR_L`, `NR_R`: only `INIT 1` and a `PROC` with the stage enabled. `MIX`: only
`PROC`. `DRY`: none. -/
def Obligations.RegistersHaveOnlyTheirWriters : Prop :=
  ∀ (i : Instr) (s t : State), exec i s = .next t →
    ((t.fault = s.fault ∧ t.cause = s.cause ∧ t.faultInfo = s.faultInfo) ∨ ∃ n, i = .proc n ∧ 512 < n) ∧
    (t.flags = s.flags ∨ ∃ f, i = .setcfg f) ∧
    (t.rate = s.rate ∨ ∃ r, i = .setrate r) ∧
    (t.rvbDepth = s.rvbDepth ∨ ∃ d m, i = .setrvb d m) ∧
    (t.rvbDelay = s.rvbDelay ∨ (∃ d m, i = .setrvb d m) ∨ RunsInit i ∧ s.rvbDelay = 0 ∧ t.rvbDelay = 100) ∧
    (t.bassDepth = s.bassDepth ∨ (∃ d m, i = .setbass d m) ∨
      RunsInit i ∧ t.bassDepth.toNat = min (max s.bassDepth.toNat 2) 8) ∧
    (t.bassRange = s.bassRange ∨ (∃ d m, i = .setbass d m) ∨ RunsInit i ∧ s.bassRange = 0 ∧ t.bassRange = 14) ∧
    (t.surDepth = s.surDepth ∨ ∃ d m, i = .setsur d m) ∧
    (t.surDelay = s.surDelay ∨ (∃ d m, i = .setsur d m) ∨ RunsInit i ∧ s.surDelay = 0 ∧ t.surDelay = 20) ∧
    (SameActive s t ∨ RunsInit i) ∧
    (t.rvb = s.rvb ∨ RunsInit i ∨ ∃ n, i = .proc n ∧ s.flags.getLsbD 0 = true) ∧
    (t.sur = s.sur ∨ RunsInit i ∨ ∃ n, i = .proc n ∧ s.flags.getLsbD 1 = true) ∧
    (t.bass = s.bass ∨ RunsInit i ∨ ∃ n, i = .proc n ∧ s.flags.getLsbD 2 = true) ∧
    (t.nr = s.nr ∨ i = .init 1 ∨ ∃ n, i = .proc n ∧ s.flags.getLsbD 3 = true) ∧
    (t.mix = s.mix ∨ ∃ n, i = .proc n) ∧
    t.dry = s.dry ∧ (∀ j, dryWord t j = dryWord s j)

/-! ### The initializer (41_initializer.md), run by `INIT` and by `SETCFG` (R216) -/

/-- R121, and R120's and R216's frame: the parameters are sanitised, which changes nothing where they are legal (R29); nothing
but parameters, active registers and histories is written. -/
def Obligations.InitSanitisesAndFrames : Prop :=
  ∀ s : State, BothInit s fun _ f t => Sanitised s t ∧ (s.ParamsLegal → SameParams s t) ∧ InitFramed f s t

/-- R122, R126: the reverb part. The depth is legal (R29), so that `RVB_DEPTH + 1` fits its register. -/
def Obligations.InitDerivesReverb : Prop :=
  ∀ s : State, s.rvbDepth.toNat ≤ 4 → BothInit s fun reset f t => ReverbInitialised reset f s t

/-- R123, R127, R132: the surround part. -/
def Obligations.InitDerivesSurround : Prop :=
  ∀ s : State, BothInit s fun reset f t => SurroundInitialised reset f s t

/-- R124, R128, R134: the bass part. -/
def Obligations.InitDerivesBass : Prop :=
  ∀ s : State, BothInit s fun reset f t => BassInitialised reset f s t

/-- R125, R129: the noise-reduction part. -/
def Obligations.InitClearsNoiseOnlyOnReset : Prop :=
  ∀ s : State, BothInit s fun reset _ t => NoiseInitialised reset s t

/-- R132: the surround curve, row by row of its table, and the multiplier it gives. -/
def Obligations.SurroundCurveFollowsItsTable : Prop :=
  (List.range 17).map surCurve = [64, 48, 40, 36, 34, 33, 32, 32, 8, 15, 22, 29, 36, 43, 50, 57, 64] ∧
    (List.range 17).map surMultOf = surMultTable ∧ ∀ d, 16 ≤ d → surCurve d = 64

/-- R130: after an `INIT` or a `SETCFG`, once `FLAGS`, `RATE` and the parameters are what they were at it, `INIT 0` changes
nothing: in every state that has also its active registers, whatever its histories and buffers are; and after every list
of host actions that holds no hard reset, `INIT` or `SETCFG` (blocks, host writes and reads, setters and rates put back,
words that fault). That the actions are run from the port is the model's own (log 4). -/
def Obligations.RepeatedInitChangesNothing : Prop :=
  ∀ (s t : State) (i : Instr), s.ParamsLegal → RunsInit i → exec i s = .next t →
    (∀ u : State, SameConfiguration t u → SameActive t u → exec (.init 0) u = .next u) ∧
    ∀ (acts : List HostAction) (u : State), (∀ a ∈ acts, ¬a.reconfigures) →
      Host.Core.run Sys2Proof.core acts.length { t with port := acts } = .next u → SameConfiguration t u →
      exec (.init 0) u = .next u

/-- R130, as an invariant: once settled, the machine stays settled through every step after which `FLAGS`, `RATE` and the
parameters are what they were, `INIT`, `SETCFG` and the hard reset among them. -/
def Obligations.SettledMachineStaysSettled : Prop :=
  ∀ s t : State, s.Settled → step s = .next t → SameConfiguration s t → t.Settled

/-- R121 to R124, R130: `INIT` and `SETCFG` settle the machine, and in a settled state `INIT 0` changes nothing. -/
def Obligations.InitSettlesTheMachine : Prop :=
  (∀ (s t : State) (i : Instr), s.ParamsLegal → RunsInit i → exec i s = .next t → t.Settled) ∧
    ∀ u : State, u.Settled → exec (.init 0) u = .next u

/-- R131: `INIT 1` leaves every history cleared, for every effect, enabled or not; and a block of zeros through every enabled
effect then stays a block of zeros, with every ring and sum still 0. -/
def Obligations.InitOneClearsHistoryAndZeroStaysZero : Prop :=
  ∀ (s : State) (count : Nat), count ≤ 512 →
    (∀ j, j < 2 * count → mixWord s j = 0 ∧ dryWord s j = 0) →
    ∃ t u, exec (.init 1) s = .next t ∧ HistoryCleared t ∧ exec (.proc count) t = .next u ∧
      (∀ j, j < 2 * count → mixWord u j = 0) ∧
      RingZero u.rvb.rv1.mem ∧ RingZero u.rvb.rv2.mem ∧ RingZero u.rvb.rv3.mem ∧ RingZero u.rvb.rv4.mem ∧
      RingZero u.rvb.rlf.mem ∧ RingZero u.rvb.rld.mem ∧ RingZero u.rvb.rlp.mem ∧ u.rvb.rlf.sum = 0 ∧ u.rvb.rlp.sum = 0 ∧
      RingZero u.sur.sur.mem ∧ RingZero u.sur.dhf.mem ∧ RingZero u.sur.dlf.mem ∧ RingZero u.sur.dld.mem ∧
      u.sur.dhf.sum = 0 ∧ u.sur.dlf.sum = 0 ∧
      RingZero u.bass.bxr.mem ∧ RingZero u.bass.bxd.mem ∧ u.bass.bxr.sum = 0 ∧ NoiseCleared u.nr

/-! ### Block processing (42 to 45, 47_process_block.md) -/

/-- R234, R252: a count above the capacity raises `CapacityViolation` with the command word, before anything is read or
written; the capacity itself is legal. -/
def Obligations.ProcBeyondCapacityRaises : Prop :=
  ∀ (s : State) (w : Word) (count : Nat) (rest : List HostAction), s.port = .command w :: rest → s.fault = false →
    decode w = .ok (.proc count) →
    (512 < count → ∃ t, step s = .next t ∧ statusWord t = 0x5 ∧
      t = { s with port := rest, reply := none, fault := true, cause := 2, faultInfo := w }) ∧
    (count ≤ 512 → ∀ t, step s = .next t → t.fault = false ∧ t.faultInfo = s.faultInfo)

/-- R233, R231: `PROC 0` changes nothing; with every stage disabled no legal `PROC` changes anything. -/
def Obligations.ProcWithNothingToDoChangesNothing : Prop :=
  ∀ s : State, exec (.proc 0) s = .next s ∧ ∀ count, count ≤ 512 → s.flags = 0 → exec (.proc count) s = .next s

/-- R230, R231, R17: within the bounds of R38 every legal block completes; it never writes `DRY`, `FLAGS`, `RATE`, a
parameter, an active register, a word of `MIX` beyond the block, or any state of a disabled stage. -/
def Obligations.ProcCompletesAndFrames : Prop :=
  ∀ (s : State) (count : Nat), s.BoundsHold → count ≤ 512 →
    ∃ t, exec (.proc count) s = .next t ∧
      t = { s with mix := t.mix, rvb := t.rvb, sur := t.sur, bass := t.bass, nr := t.nr } ∧ SameActive s t ∧
      (∀ j, 2 * count ≤ j → mixWord t j = mixWord s j) ∧ (∀ j, dryWord t j = dryWord s j) ∧
      (s.flags.getLsbD 0 = false → t.rvb = s.rvb) ∧ (s.flags.getLsbD 1 = false → t.sur = s.sur) ∧
      (s.flags.getLsbD 2 = false → t.bass = s.bass) ∧ (s.flags.getLsbD 3 = false → t.nr = s.nr)

/-- R141, R142: with reverb alone enabled, a block of `i + 1` pairs is a block of `i` pairs and then `RVB.STEP(i)`. -/
def Obligations.ReverbBlockRunsReverbSteps : Prop :=
  ∀ (s : State) (i : Nat), s.BoundsHold → s.flags = 1 → i < 512 →
    ∃ u t, exec (.proc i) s = .next u ∧ exec (.proc (i + 1)) s = .next t ∧ ReverbStepped i u t

/-- R161, R162: with surround alone enabled, a block of `i + 1` pairs is a block of `i` pairs and then `SUR.STEP(i)`. -/
def Obligations.SurroundBlockRunsSurroundSteps : Prop :=
  ∀ (s : State) (i : Nat), s.BoundsHold → s.flags = 2 → i < 512 →
    ∃ u t, exec (.proc i) s = .next u ∧ exec (.proc (i + 1)) s = .next t ∧ SurroundStepped i u t

/-- R181, R182: with bass alone enabled, a block of `i + 1` pairs is a block of `i` pairs and then `BASS.STEP(i)`. -/
def Obligations.BassBlockRunsBassSteps : Prop :=
  ∀ (s : State) (i : Nat), s.BoundsHold → s.flags = 4 → i < 512 →
    ∃ u t, exec (.proc i) s = .next u ∧ exec (.proc (i + 1)) s = .next t ∧ BassStepped i u t

/-- R201, R202: with noise reduction alone enabled, a block of `i + 1` pairs is a block of `i` pairs and then `NR.STEP(i)`. -/
def Obligations.NoiseBlockRunsNoiseSteps : Prop :=
  ∀ (s : State) (i : Nat), s.flags = 8 → i < 512 →
    ∃ u t, exec (.proc i) s = .next u ∧ exec (.proc (i + 1)) s = .next t ∧ NoiseStepped i u t

/-- R230, R231: a block with any flags is the four stages one after the other, each seeing `MIX` as the one before left it:
reverb, surround, bass, noise reduction, each as a block with that stage alone enabled. -/
def Obligations.StagesRunInFixedOrder : Prop :=
  ∀ (s : State) (count : Nat), s.BoundsHold → count ≤ 512 →
    ∃ s1 s2 s3 s4 : State,
      exec (.proc count) { s with flags := s.flags &&& 1 } = .next s1 ∧
      exec (.proc count) { s1 with flags := s.flags &&& 2 } = .next s2 ∧
      exec (.proc count) { s2 with flags := s.flags &&& 4 } = .next s3 ∧
      exec (.proc count) { s3 with flags := s.flags &&& 8 } = .next s4 ∧
      exec (.proc count) s = .next { s4 with flags := s.flags }

/-- R232: the sample-major order, all enabled steps on pair 0, then on pair 1, and so on, gives the same result. The premise
is the model's own canonical form of `MIX` (logs 1 and 2), without which two lists could hold the same words; that the
model stops where a step would leave its ring, in both orders alike, is its choice for states R38 rules out (log 7). -/
def Obligations.SampleMajorOrderAgrees : Prop :=
  ∀ (s : State) (count : Nat), Memory.wf bufferSize none s.mix = true → count ≤ 512 →
    exec (.proc count) s =
      match forPairs count (pairThroughAll s.flags) s with
      | some t => .next t
      | none => .fault .ringIndexBeyondCapacity

/-- R235: a block of `a + b` pairs is a block of `a`, the host moving the rest of the buffers down, and a block of `b`: the
same histories at the end, the outputs concatenated. -/
def Obligations.SplitBlocksConcatenate : Prop :=
  ∀ (s : State) (a b : Nat), s.BoundsHold → a + b ≤ 512 →
    ∃ t t1, exec (.proc (a + b)) s = .next t ∧ exec (.proc a) s = .next t1 ∧
      ∀ moved : State, moved = { t1 with mix := moved.mix, dry := moved.dry } →
        (∀ j, j < 2 * b → mixWord moved j = mixWord t1 (2 * a + j) ∧ dryWord moved j = dryWord t1 (2 * a + j)) →
        ∃ t2, exec (.proc b) moved = .next t2 ∧ SameHistory t t2 ∧
          (∀ j, j < 2 * a → mixWord t j = mixWord t1 j) ∧ (∀ j, j < 2 * b → mixWord t (2 * a + j) = mixWord t2 j)

/-- R200, R201 (b): noise reduction alone is the average of each sample's half with the half before it, exactly, with no
wrap, the scalars carrying the last half out of the block. -/
def Obligations.NoiseReductionIsTwoTapAverage : Prop :=
  ∀ (s : State) (count : Nat), s.NoiseHalved → s.flags = 8 → count ≤ 512 →
    ∃ t, exec (.proc count) s = .next t ∧
      (∀ i, i < count →
        (mixWord t (2 * i)).toInt = (mixWord s (2 * i)).toInt / 2 +
          (if i = 0 then s.nr.left.toInt else (mixWord s (2 * (i - 1))).toInt / 2) ∧
        (mixWord t (2 * i + 1)).toInt = (mixWord s (2 * i + 1)).toInt / 2 +
          (if i = 0 then s.nr.right.toInt else (mixWord s (2 * (i - 1) + 1)).toInt / 2)) ∧
      t.nr.left.toInt = (if count = 0 then s.nr.left.toInt else (mixWord s (2 * (count - 1))).toInt / 2) ∧
      t.nr.right.toInt = (if count = 0 then s.nr.right.toInt else (mixWord s (2 * (count - 1) + 1)).toInt / 2)

/-- R161 (d): the surround stage adds nothing to the mono sum of any pair. -/
def Obligations.SurroundKeepsMonoSum : Prop :=
  ∀ (s : State) (count : Nat), s.BoundsHold → s.flags = 2 → count ≤ 512 →
    ∃ t, exec (.proc count) s = .next t ∧
      ∀ i, i < count → mixWord t (2 * i) + mixWord t (2 * i + 1) = mixWord s (2 * i) + mixWord s (2 * i + 1)

/-- R181 (a): the bass feed rounds toward zero for both signs. -/
def Obligations.BassFeedRoundsTowardZero : Prop :=
  ∀ (l r : Word) (k : Nat), k ≤ 31 → (bassFeed l r k).toInt = Int.tdiv (l + r).toInt (2 ^ k)

/-- R273: `PROC` reads no parameter register and not `RATE`: with other values there it does the same. -/
def Obligations.ProcIgnoresParametersAndRate : Prop :=
  ∀ (s s' t : State) (count : Nat),
    s' = { s with
      rate := s'.rate, rvbDepth := s'.rvbDepth, rvbDelay := s'.rvbDelay, bassDepth := s'.bassDepth
      bassRange := s'.bassRange, surDepth := s'.surDepth, surDelay := s'.surDelay } →
    exec (.proc count) s = .next t →
    exec (.proc count) s' = .next { t with
      rate := s'.rate, rvbDepth := s'.rvbDepth, rvbDelay := s'.rvbDelay, bassDepth := s'.bassDepth
      bassRange := s'.bassRange, surDepth := s'.surDepth, surDelay := s'.surDelay }

/-- R143, R276: with reverb disabled `DRY` is ignored entirely. -/
def Obligations.DisabledReverbIgnoresDry : Prop :=
  ∀ (s t : State) (m : Memory) (count : Nat), s.flags.getLsbD 0 = false → exec (.proc count) s = .next t →
    exec (.proc count) { s with dry := m } = .next { t with dry := m }

/-- R78: words of `MIX` and `DRY` at index `2 × count` and beyond are neither read nor written: two states that differ only
there give blocks that differ only there, and each such word, as every word of `DRY`, keeps its value. -/
def Obligations.WordsBeyondTheBlockAreNotRead : Prop :=
  ∀ (s s' t : State) (count : Nat), count ≤ 512 → s' = { s with mix := s'.mix, dry := s'.dry } →
    (∀ j, j < 2 * count → mixWord s' j = mixWord s j ∧ dryWord s' j = dryWord s j) → exec (.proc count) s = .next t →
    ∃ t', exec (.proc count) s' = .next t' ∧ SameHistory t t' ∧ (∀ j, j < 2 * count → mixWord t' j = mixWord t j) ∧
      (∀ j, 2 * count ≤ j → mixWord t' j = mixWord s' j) ∧ t'.dry = s'.dry ∧ ∀ j, dryWord t' j = dryWord s' j

/-! ### The shared components (00_scope.md, 40_mask_ring_runsum.md) -/

/-- R10: `wrap32` is the one word congruent to its argument; sums, differences and products of words are `wrap32` of the exact
results; wrapping a partial sum or product on the way changes nothing. -/
def Obligations.SignalArithmeticWraps : Prop :=
  (∀ x : Int, -2147483648 ≤ (wrap32 x).toInt ∧ (wrap32 x).toInt < 2147483648 ∧ ((wrap32 x).toInt - x) % 4294967296 = 0) ∧
    (∀ (x : Int) (y : Word), (y.toInt - x) % 4294967296 = 0 → y = wrap32 x) ∧
    (∀ x y : Int, wrap32 ((wrap32 x).toInt + y) = wrap32 (x + y) ∧ wrap32 ((wrap32 x).toInt * y) = wrap32 (x * y)) ∧
    ∀ a b : Word, a + b = wrap32 (a.toInt + b.toInt) ∧ a - b = wrap32 (a.toInt - b.toInt) ∧
      a * b = wrap32 (a.toInt * b.toInt)

/-- R11: `asr` rounds toward negative infinity; the rule's examples. -/
def Obligations.ArithmeticShiftIsFloor : Prop :=
  (∀ (x : Word) (n : Nat), n ≤ 31 → (asr x n).toInt = x.toInt / 2 ^ n) ∧
    (∀ n : Nat, 1 ≤ n → n ≤ 31 → asr (-1) n = -1) ∧ asr (-3) 1 = -2 ∧ asr 3 1 = 1

/-- R100: the mask utility. -/
def Obligations.MaskIsSmallestPowerAbove : Prop :=
  maskOf 0 = 0 ∧
    (∀ n : Nat, 1 ≤ n → ∃ k, 1 ≤ k ∧ maskOf n = 2 ^ k - 1 ∧ 2 ^ k > n ∧ n ≥ 2 ^ (k - 1) ∧
      ∀ k', 1 ≤ k' → 2 ^ k' > n → n ≥ 2 ^ (k' - 1) → k' = k) ∧
    ∀ m n : Nat, m ≤ n → maskOf m ≤ maskOf n

/-- R105: a delay line gives back what was stored `L` steps before, or 0 before that: `L` is the configured size (at least 1)
for a line that advances by size, the mask and one for a line that advances by mask. -/
def Obligations.DelayLinesDelayByTheirLength : Prop :=
  ∀ (w : Nat) (vs : List Word),
    (∀ n : Nat, n < 2 ^ w → ringTap (vs.foldl (fun r v => ringPutSize n v r) (Ring.cleared : Ring w)) =
      if max n 1 ≤ vs.length then vs.getD (vs.length - max n 1) 0 else 0) ∧
    ∀ k : Nat, k ≤ w → ringTap (vs.foldl (fun r v => ringPutMask (2 ^ k - 1) v r) (Ring.cleared : Ring w)) =
      if 2 ^ k ≤ vs.length then vs.getD (vs.length - 2 ^ k) 0 else 0

/-- R107: a running-sum filter holds the sum of the last `M + 1` values fed to it since it was cleared. -/
def Obligations.RunningSumIsBoxcar : Prop :=
  ∀ (w k : Nat) (vs : List Word), k ≤ w →
    (vs.foldl (fun f v => sumStep (2 ^ k - 1) v f) (SumRing.cleared : SumRing w)).sum =
      wrap32 (((vs.drop (vs.length - 2 ^ k)).map BitVec.toInt).sum)

/-! ### Invariants of the machine -/

/-- The invariant holds at reset, and the machine is settled there (R130). The invariant gathers R29 to R32, R37, R38, R201 (b), R216 and the model's own canonical form of the
memories (log 1, log 2). -/
def Obligations.ResetMeetsTheInvariant : Prop := State.reset.Inv ∧ State.reset.Settled

/-- Every step keeps the invariant, from every state that meets it. -/
def Obligations.EveryStepKeepsTheInvariant : Prop := ∀ s t : State, s.Inv → step s = .next t → t.Inv

/-- R37: the five running sums equal the sums of their rings, modulo 2^32, after hard reset and after every command. -/
def Obligations.RunningSumsStayExact : Prop :=
  (∀ s : State, (hardReset s).SumsHold) ∧ ∀ s t : State, s.SumsHold → step s = .next t → t.SumsHold

/-- R38: the position bounds, after hard reset and after every command. -/
def Obligations.PositionsStayInBounds : Prop :=
  (∀ s : State, (hardReset s).BoundsHold) ∧ ∀ s t : State, s.BoundsHold → step s = .next t → t.BoundsHold

/-- The canonical form of every memory, the model's own (log 1, log 2), is kept by every step. -/
def Obligations.MemoriesStayCanonical : Prop :=
  ∀ s t : State, s.MemCanonical → step s = .next t → t.MemCanonical

/-- R17, R38, R250: within the bounds every host action completes, and whatever the host issues after reset, the machine
never stops. -/
def Obligations.NoHostProgramStopsTheMachine : Prop :=
  (∀ s : State, s.BoundsHold → s.Steps) ∧
    ∀ (program : List HostAction) (n : Nat),
      ∃ t, Host.Core.run Sys2Proof.core n { State.reset with port := program } = .next t

/-- R271: `INIT 1` after a hard reset and a `SETCFG` changes nothing. -/
def Obligations.InitOneAfterResetAndSetcfgIsRedundant : Prop :=
  ∀ (s : State) (flags : Nat), flags < 16 →
    ∃ t, exec (.setcfg flags) (hardReset s) = .next t ∧ exec (.init 1) t = .next t
end

