-- ==== Sys2Proof/Laws/Encoding.lean ====
section
/-! SUPPORT. The fields of a command word as numbers (R81 to R86): disjoint fields add, and a mask of high bits keeps the
high part of a word. -/

namespace Sys2Proof

/-- A field below bit `k` beside one at bit `k` and above: their OR is their sum. -/
theorem or_eq_add {a b k : Nat} (h : b < 2 ^ k) : (a * 2 ^ k) ||| b = a * 2 ^ k + b := by
  rw [Nat.mul_comm]
  exact (Nat.two_pow_add_eq_or_of_lt h a).symm

theorem toNat_ofNat_word {n : Nat} (h : n < 4294967296) : (BitVec.ofNat 32 n).toNat = n := by
  rw [BitVec.toNat_ofNat]; omega

/-- The word of a format with one operand field of `k` bits below the opcode (formats `I`, `P`, `C`, `R`). -/
theorem word_toNat_of_field {op x k : Nat} (hk : k ≤ 28) (hop : op < 16) (h : x < 2 ^ k) :
    (BitVec.ofNat 32 (op * 2 ^ 28 ||| x)).toNat = op * 2 ^ 28 + x := by
  have hx : x < 2 ^ 28 := Nat.lt_of_lt_of_le h (Nat.pow_le_pow_right (by decide) hk)
  rw [or_eq_add hx, toNat_ofNat_word (by omega)]

/-- The word of format `S`. -/
theorem word_toNat_of_fields {op d a : Nat} (hop : op < 16) (hd : d < 256) (ha : a < 65536) :
    (BitVec.ofNat 32 (op * 2 ^ 28 ||| (d <<< 16) ||| a)).toNat = op * 2 ^ 28 + d * 2 ^ 16 + a := by
  have e1 : op * 2 ^ 28 ||| (d <<< 16) = op * 2 ^ 28 + d * 2 ^ 16 := by
    rw [Nat.shiftLeft_eq]; exact or_eq_add (by omega)
  have e2 : (op * 2 ^ 28 + d * 2 ^ 16) ||| a = op * 2 ^ 28 + d * 2 ^ 16 + a := by
    have e := or_eq_add (a := op * 2 ^ 12 + d) (k := 16) (b := a) (by omega)
    rw [show op * 2 ^ 28 + d * 2 ^ 16 = (op * 2 ^ 12 + d) * 2 ^ 16 by omega]; exact e
  rw [e1, e2, toNat_ofNat_word (by omega)]

theorem encode_init_toNat {r : Nat} (h : r < 2) : (encode (.init r)).toNat = 0x10000000 + r :=
  word_toNat_of_field (op := 1) (k := 1) (by decide) (by decide) h

theorem encode_proc_toNat {n : Nat} (h : n < 65536) : (encode (.proc n)).toNat = 0x20000000 + n :=
  word_toNat_of_field (op := 2) (k := 16) (by decide) (by decide) h

theorem encode_setrvb_toNat {d m : Nat} (hd : d < 256) (hm : m < 65536) :
    (encode (.setrvb d m)).toNat = 0x30000000 + d * 2 ^ 16 + m := word_toNat_of_fields (op := 3) (by decide) hd hm

theorem encode_setbass_toNat {d m : Nat} (hd : d < 256) (hm : m < 65536) :
    (encode (.setbass d m)).toNat = 0x40000000 + d * 2 ^ 16 + m := word_toNat_of_fields (op := 4) (by decide) hd hm

theorem encode_setsur_toNat {d m : Nat} (hd : d < 256) (hm : m < 65536) :
    (encode (.setsur d m)).toNat = 0x50000000 + d * 2 ^ 16 + m := word_toNat_of_fields (op := 5) (by decide) hd hm

theorem encode_setcfg_toNat {f : Nat} (h : f < 16) : (encode (.setcfg f)).toNat = 0x60000000 + f :=
  word_toNat_of_field (op := 6) (k := 4) (by decide) (by decide) h

theorem encode_setrate_toNat {r : Nat} (h : r < 1048576) : (encode (.setrate r)).toNat = 0x70000000 + r :=
  word_toNat_of_field (op := 7) (k := 20) (by decide) (by decide) h

/-- ANDing with a mask whose ones are exactly the bits from `k` up drops the low `k` bits. -/
theorem and_highMask_toNat (w : Word) {k : Nat} (hk : k ≤ 32) :
    (w &&& BitVec.ofNat 32 (2 ^ 32 - 2 ^ k)).toNat = w.toNat / 2 ^ k * 2 ^ k := by
  have hp : 2 ^ k ≤ 2 ^ 32 := Nat.pow_le_pow_right (by decide) hk
  have e : 2 ^ 32 - 2 ^ k = (2 ^ (32 - k) - 1) * 2 ^ k := by
    rw [Nat.sub_mul, ← Nat.pow_add, Nat.sub_add_cancel hk, Nat.one_mul]
  have hpos : 0 < 2 ^ k := Nat.two_pow_pos k
  rw [BitVec.toNat_and, toNat_ofNat_word (by omega), e]
  apply Nat.eq_of_testBit_eq
  intro j
  rw [Nat.testBit_and, Nat.testBit_mul_two_pow, Nat.testBit_mul_two_pow, Nat.testBit_two_pow_sub_one,
    Nat.testBit_div_two_pow]
  by_cases hj : k ≤ j
  · rw [show j - k + k = j by omega]
    by_cases h32 : j - k < 32 - k
    · simp [hj, h32]
    · have : w.toNat.testBit j = false :=
        Nat.testBit_lt_two_pow (Nat.lt_of_lt_of_le w.isLt (Nat.pow_le_pow_right (by decide) (by omega)))
      simp [this]
  · simp [hj]

/-- A word matches a row of the opcode map whose mask is all the bits from `k` up exactly when its high part is the row's. -/
theorem and_highMask_eq_iff (w p : Word) {k : Nat} (hk : k ≤ 32) (hp : p.toNat / 2 ^ k * 2 ^ k = p.toNat) :
    w &&& BitVec.ofNat 32 (2 ^ 32 - 2 ^ k) = p ↔ w.toNat / 2 ^ k = p.toNat / 2 ^ k := by
  rw [← BitVec.toNat_inj, and_highMask_toNat w hk]
  constructor
  · intro h; rw [← h, Nat.mul_div_cancel _ (Nat.two_pow_pos k)]
  · intro h; rw [h, hp]

end Sys2Proof
end

