-- ==== Sys2Proof/Laws/State.lean ====
section
/-! SUPPORT. What each named update of the state leaves in each field: one lemma per field per update. -/

namespace Sys2Proof.Machine

section
variable (s : State)

@[simp] theorem State.setFlags_fault (v : BitVec 4) : (State.setFlags v s).fault = s.fault := rfl
@[simp] theorem State.setFlags_cause (v : BitVec 4) : (State.setFlags v s).cause = s.cause := rfl
@[simp] theorem State.setFlags_faultInfo (v : BitVec 4) : (State.setFlags v s).faultInfo = s.faultInfo := rfl
@[simp] theorem State.setFlags_flags (v : BitVec 4) : (State.setFlags v s).flags = v := rfl
@[simp] theorem State.setFlags_rate (v : BitVec 4) : (State.setFlags v s).rate = s.rate := rfl
@[simp] theorem State.setFlags_rvbDepth (v : BitVec 4) : (State.setFlags v s).rvbDepth = s.rvbDepth := rfl
@[simp] theorem State.setFlags_rvbDelay (v : BitVec 4) : (State.setFlags v s).rvbDelay = s.rvbDelay := rfl
@[simp] theorem State.setFlags_bassDepth (v : BitVec 4) : (State.setFlags v s).bassDepth = s.bassDepth := rfl
@[simp] theorem State.setFlags_bassRange (v : BitVec 4) : (State.setFlags v s).bassRange = s.bassRange := rfl
@[simp] theorem State.setFlags_surDepth (v : BitVec 4) : (State.setFlags v s).surDepth = s.surDepth := rfl
@[simp] theorem State.setFlags_surDelay (v : BitVec 4) : (State.setFlags v s).surDelay = s.surDelay := rfl
@[simp] theorem State.setFlags_rvb (v : BitVec 4) : (State.setFlags v s).rvb = s.rvb := rfl
@[simp] theorem State.setFlags_sur (v : BitVec 4) : (State.setFlags v s).sur = s.sur := rfl
@[simp] theorem State.setFlags_bass (v : BitVec 4) : (State.setFlags v s).bass = s.bass := rfl
@[simp] theorem State.setFlags_nr (v : BitVec 4) : (State.setFlags v s).nr = s.nr := rfl
@[simp] theorem State.setFlags_mix (v : BitVec 4) : (State.setFlags v s).mix = s.mix := rfl
@[simp] theorem State.setFlags_dry (v : BitVec 4) : (State.setFlags v s).dry = s.dry := rfl
@[simp] theorem State.setFlags_resets (v : BitVec 4) : (State.setFlags v s).resets = s.resets := rfl
@[simp] theorem State.setFlags_port (v : BitVec 4) : (State.setFlags v s).port = s.port := rfl
@[simp] theorem State.setFlags_reply (v : BitVec 4) : (State.setFlags v s).reply = s.reply := rfl

@[simp] theorem State.setRate_fault (v : BitVec 20) : (State.setRate v s).fault = s.fault := rfl
@[simp] theorem State.setRate_cause (v : BitVec 20) : (State.setRate v s).cause = s.cause := rfl
@[simp] theorem State.setRate_faultInfo (v : BitVec 20) : (State.setRate v s).faultInfo = s.faultInfo := rfl
@[simp] theorem State.setRate_flags (v : BitVec 20) : (State.setRate v s).flags = s.flags := rfl
@[simp] theorem State.setRate_rate (v : BitVec 20) : (State.setRate v s).rate = v := rfl
@[simp] theorem State.setRate_rvbDepth (v : BitVec 20) : (State.setRate v s).rvbDepth = s.rvbDepth := rfl
@[simp] theorem State.setRate_rvbDelay (v : BitVec 20) : (State.setRate v s).rvbDelay = s.rvbDelay := rfl
@[simp] theorem State.setRate_bassDepth (v : BitVec 20) : (State.setRate v s).bassDepth = s.bassDepth := rfl
@[simp] theorem State.setRate_bassRange (v : BitVec 20) : (State.setRate v s).bassRange = s.bassRange := rfl
@[simp] theorem State.setRate_surDepth (v : BitVec 20) : (State.setRate v s).surDepth = s.surDepth := rfl
@[simp] theorem State.setRate_surDelay (v : BitVec 20) : (State.setRate v s).surDelay = s.surDelay := rfl
@[simp] theorem State.setRate_rvb (v : BitVec 20) : (State.setRate v s).rvb = s.rvb := rfl
@[simp] theorem State.setRate_sur (v : BitVec 20) : (State.setRate v s).sur = s.sur := rfl
@[simp] theorem State.setRate_bass (v : BitVec 20) : (State.setRate v s).bass = s.bass := rfl
@[simp] theorem State.setRate_nr (v : BitVec 20) : (State.setRate v s).nr = s.nr := rfl
@[simp] theorem State.setRate_mix (v : BitVec 20) : (State.setRate v s).mix = s.mix := rfl
@[simp] theorem State.setRate_dry (v : BitVec 20) : (State.setRate v s).dry = s.dry := rfl
@[simp] theorem State.setRate_resets (v : BitVec 20) : (State.setRate v s).resets = s.resets := rfl
@[simp] theorem State.setRate_port (v : BitVec 20) : (State.setRate v s).port = s.port := rfl
@[simp] theorem State.setRate_reply (v : BitVec 20) : (State.setRate v s).reply = s.reply := rfl

@[simp] theorem State.setRvbParams_fault (d : BitVec 3) (e : BitVec 8) : (State.setRvbParams d e s).fault = s.fault := rfl
@[simp] theorem State.setRvbParams_cause (d : BitVec 3) (e : BitVec 8) : (State.setRvbParams d e s).cause = s.cause := rfl
@[simp] theorem State.setRvbParams_faultInfo (d : BitVec 3) (e : BitVec 8) : (State.setRvbParams d e s).faultInfo = s.faultInfo := rfl
@[simp] theorem State.setRvbParams_flags (d : BitVec 3) (e : BitVec 8) : (State.setRvbParams d e s).flags = s.flags := rfl
@[simp] theorem State.setRvbParams_rate (d : BitVec 3) (e : BitVec 8) : (State.setRvbParams d e s).rate = s.rate := rfl
@[simp] theorem State.setRvbParams_rvbDepth (d : BitVec 3) (e : BitVec 8) : (State.setRvbParams d e s).rvbDepth = d := rfl
@[simp] theorem State.setRvbParams_rvbDelay (d : BitVec 3) (e : BitVec 8) : (State.setRvbParams d e s).rvbDelay = e := rfl
@[simp] theorem State.setRvbParams_bassDepth (d : BitVec 3) (e : BitVec 8) : (State.setRvbParams d e s).bassDepth = s.bassDepth := rfl
@[simp] theorem State.setRvbParams_bassRange (d : BitVec 3) (e : BitVec 8) : (State.setRvbParams d e s).bassRange = s.bassRange := rfl
@[simp] theorem State.setRvbParams_surDepth (d : BitVec 3) (e : BitVec 8) : (State.setRvbParams d e s).surDepth = s.surDepth := rfl
@[simp] theorem State.setRvbParams_surDelay (d : BitVec 3) (e : BitVec 8) : (State.setRvbParams d e s).surDelay = s.surDelay := rfl
@[simp] theorem State.setRvbParams_rvb (d : BitVec 3) (e : BitVec 8) : (State.setRvbParams d e s).rvb = s.rvb := rfl
@[simp] theorem State.setRvbParams_sur (d : BitVec 3) (e : BitVec 8) : (State.setRvbParams d e s).sur = s.sur := rfl
@[simp] theorem State.setRvbParams_bass (d : BitVec 3) (e : BitVec 8) : (State.setRvbParams d e s).bass = s.bass := rfl
@[simp] theorem State.setRvbParams_nr (d : BitVec 3) (e : BitVec 8) : (State.setRvbParams d e s).nr = s.nr := rfl
@[simp] theorem State.setRvbParams_mix (d : BitVec 3) (e : BitVec 8) : (State.setRvbParams d e s).mix = s.mix := rfl
@[simp] theorem State.setRvbParams_dry (d : BitVec 3) (e : BitVec 8) : (State.setRvbParams d e s).dry = s.dry := rfl
@[simp] theorem State.setRvbParams_resets (d : BitVec 3) (e : BitVec 8) : (State.setRvbParams d e s).resets = s.resets := rfl
@[simp] theorem State.setRvbParams_port (d : BitVec 3) (e : BitVec 8) : (State.setRvbParams d e s).port = s.port := rfl
@[simp] theorem State.setRvbParams_reply (d : BitVec 3) (e : BitVec 8) : (State.setRvbParams d e s).reply = s.reply := rfl

@[simp] theorem State.setBassParams_fault (d : BitVec 4) (e : BitVec 5) : (State.setBassParams d e s).fault = s.fault := rfl
@[simp] theorem State.setBassParams_cause (d : BitVec 4) (e : BitVec 5) : (State.setBassParams d e s).cause = s.cause := rfl
@[simp] theorem State.setBassParams_faultInfo (d : BitVec 4) (e : BitVec 5) : (State.setBassParams d e s).faultInfo = s.faultInfo := rfl
@[simp] theorem State.setBassParams_flags (d : BitVec 4) (e : BitVec 5) : (State.setBassParams d e s).flags = s.flags := rfl
@[simp] theorem State.setBassParams_rate (d : BitVec 4) (e : BitVec 5) : (State.setBassParams d e s).rate = s.rate := rfl
@[simp] theorem State.setBassParams_rvbDepth (d : BitVec 4) (e : BitVec 5) : (State.setBassParams d e s).rvbDepth = s.rvbDepth := rfl
@[simp] theorem State.setBassParams_rvbDelay (d : BitVec 4) (e : BitVec 5) : (State.setBassParams d e s).rvbDelay = s.rvbDelay := rfl
@[simp] theorem State.setBassParams_bassDepth (d : BitVec 4) (e : BitVec 5) : (State.setBassParams d e s).bassDepth = d := rfl
@[simp] theorem State.setBassParams_bassRange (d : BitVec 4) (e : BitVec 5) : (State.setBassParams d e s).bassRange = e := rfl
@[simp] theorem State.setBassParams_surDepth (d : BitVec 4) (e : BitVec 5) : (State.setBassParams d e s).surDepth = s.surDepth := rfl
@[simp] theorem State.setBassParams_surDelay (d : BitVec 4) (e : BitVec 5) : (State.setBassParams d e s).surDelay = s.surDelay := rfl
@[simp] theorem State.setBassParams_rvb (d : BitVec 4) (e : BitVec 5) : (State.setBassParams d e s).rvb = s.rvb := rfl
@[simp] theorem State.setBassParams_sur (d : BitVec 4) (e : BitVec 5) : (State.setBassParams d e s).sur = s.sur := rfl
@[simp] theorem State.setBassParams_bass (d : BitVec 4) (e : BitVec 5) : (State.setBassParams d e s).bass = s.bass := rfl
@[simp] theorem State.setBassParams_nr (d : BitVec 4) (e : BitVec 5) : (State.setBassParams d e s).nr = s.nr := rfl
@[simp] theorem State.setBassParams_mix (d : BitVec 4) (e : BitVec 5) : (State.setBassParams d e s).mix = s.mix := rfl
@[simp] theorem State.setBassParams_dry (d : BitVec 4) (e : BitVec 5) : (State.setBassParams d e s).dry = s.dry := rfl
@[simp] theorem State.setBassParams_resets (d : BitVec 4) (e : BitVec 5) : (State.setBassParams d e s).resets = s.resets := rfl
@[simp] theorem State.setBassParams_port (d : BitVec 4) (e : BitVec 5) : (State.setBassParams d e s).port = s.port := rfl
@[simp] theorem State.setBassParams_reply (d : BitVec 4) (e : BitVec 5) : (State.setBassParams d e s).reply = s.reply := rfl

@[simp] theorem State.setSurParams_fault (d : BitVec 5) (e : BitVec 6) : (State.setSurParams d e s).fault = s.fault := rfl
@[simp] theorem State.setSurParams_cause (d : BitVec 5) (e : BitVec 6) : (State.setSurParams d e s).cause = s.cause := rfl
@[simp] theorem State.setSurParams_faultInfo (d : BitVec 5) (e : BitVec 6) : (State.setSurParams d e s).faultInfo = s.faultInfo := rfl
@[simp] theorem State.setSurParams_flags (d : BitVec 5) (e : BitVec 6) : (State.setSurParams d e s).flags = s.flags := rfl
@[simp] theorem State.setSurParams_rate (d : BitVec 5) (e : BitVec 6) : (State.setSurParams d e s).rate = s.rate := rfl
@[simp] theorem State.setSurParams_rvbDepth (d : BitVec 5) (e : BitVec 6) : (State.setSurParams d e s).rvbDepth = s.rvbDepth := rfl
@[simp] theorem State.setSurParams_rvbDelay (d : BitVec 5) (e : BitVec 6) : (State.setSurParams d e s).rvbDelay = s.rvbDelay := rfl
@[simp] theorem State.setSurParams_bassDepth (d : BitVec 5) (e : BitVec 6) : (State.setSurParams d e s).bassDepth = s.bassDepth := rfl
@[simp] theorem State.setSurParams_bassRange (d : BitVec 5) (e : BitVec 6) : (State.setSurParams d e s).bassRange = s.bassRange := rfl
@[simp] theorem State.setSurParams_surDepth (d : BitVec 5) (e : BitVec 6) : (State.setSurParams d e s).surDepth = d := rfl
@[simp] theorem State.setSurParams_surDelay (d : BitVec 5) (e : BitVec 6) : (State.setSurParams d e s).surDelay = e := rfl
@[simp] theorem State.setSurParams_rvb (d : BitVec 5) (e : BitVec 6) : (State.setSurParams d e s).rvb = s.rvb := rfl
@[simp] theorem State.setSurParams_sur (d : BitVec 5) (e : BitVec 6) : (State.setSurParams d e s).sur = s.sur := rfl
@[simp] theorem State.setSurParams_bass (d : BitVec 5) (e : BitVec 6) : (State.setSurParams d e s).bass = s.bass := rfl
@[simp] theorem State.setSurParams_nr (d : BitVec 5) (e : BitVec 6) : (State.setSurParams d e s).nr = s.nr := rfl
@[simp] theorem State.setSurParams_mix (d : BitVec 5) (e : BitVec 6) : (State.setSurParams d e s).mix = s.mix := rfl
@[simp] theorem State.setSurParams_dry (d : BitVec 5) (e : BitVec 6) : (State.setSurParams d e s).dry = s.dry := rfl
@[simp] theorem State.setSurParams_resets (d : BitVec 5) (e : BitVec 6) : (State.setSurParams d e s).resets = s.resets := rfl
@[simp] theorem State.setSurParams_port (d : BitVec 5) (e : BitVec 6) : (State.setSurParams d e s).port = s.port := rfl
@[simp] theorem State.setSurParams_reply (d : BitVec 5) (e : BitVec 6) : (State.setSurParams d e s).reply = s.reply := rfl

@[simp] theorem State.setRvb_fault (h : Reverb) : (State.setRvb h s).fault = s.fault := rfl
@[simp] theorem State.setRvb_cause (h : Reverb) : (State.setRvb h s).cause = s.cause := rfl
@[simp] theorem State.setRvb_faultInfo (h : Reverb) : (State.setRvb h s).faultInfo = s.faultInfo := rfl
@[simp] theorem State.setRvb_flags (h : Reverb) : (State.setRvb h s).flags = s.flags := rfl
@[simp] theorem State.setRvb_rate (h : Reverb) : (State.setRvb h s).rate = s.rate := rfl
@[simp] theorem State.setRvb_rvbDepth (h : Reverb) : (State.setRvb h s).rvbDepth = s.rvbDepth := rfl
@[simp] theorem State.setRvb_rvbDelay (h : Reverb) : (State.setRvb h s).rvbDelay = s.rvbDelay := rfl
@[simp] theorem State.setRvb_bassDepth (h : Reverb) : (State.setRvb h s).bassDepth = s.bassDepth := rfl
@[simp] theorem State.setRvb_bassRange (h : Reverb) : (State.setRvb h s).bassRange = s.bassRange := rfl
@[simp] theorem State.setRvb_surDepth (h : Reverb) : (State.setRvb h s).surDepth = s.surDepth := rfl
@[simp] theorem State.setRvb_surDelay (h : Reverb) : (State.setRvb h s).surDelay = s.surDelay := rfl
@[simp] theorem State.setRvb_rvb (h : Reverb) : (State.setRvb h s).rvb = h := rfl
@[simp] theorem State.setRvb_sur (h : Reverb) : (State.setRvb h s).sur = s.sur := rfl
@[simp] theorem State.setRvb_bass (h : Reverb) : (State.setRvb h s).bass = s.bass := rfl
@[simp] theorem State.setRvb_nr (h : Reverb) : (State.setRvb h s).nr = s.nr := rfl
@[simp] theorem State.setRvb_mix (h : Reverb) : (State.setRvb h s).mix = s.mix := rfl
@[simp] theorem State.setRvb_dry (h : Reverb) : (State.setRvb h s).dry = s.dry := rfl
@[simp] theorem State.setRvb_resets (h : Reverb) : (State.setRvb h s).resets = s.resets := rfl
@[simp] theorem State.setRvb_port (h : Reverb) : (State.setRvb h s).port = s.port := rfl
@[simp] theorem State.setRvb_reply (h : Reverb) : (State.setRvb h s).reply = s.reply := rfl

@[simp] theorem State.setSur_fault (h : Surround) : (State.setSur h s).fault = s.fault := rfl
@[simp] theorem State.setSur_cause (h : Surround) : (State.setSur h s).cause = s.cause := rfl
@[simp] theorem State.setSur_faultInfo (h : Surround) : (State.setSur h s).faultInfo = s.faultInfo := rfl
@[simp] theorem State.setSur_flags (h : Surround) : (State.setSur h s).flags = s.flags := rfl
@[simp] theorem State.setSur_rate (h : Surround) : (State.setSur h s).rate = s.rate := rfl
@[simp] theorem State.setSur_rvbDepth (h : Surround) : (State.setSur h s).rvbDepth = s.rvbDepth := rfl
@[simp] theorem State.setSur_rvbDelay (h : Surround) : (State.setSur h s).rvbDelay = s.rvbDelay := rfl
@[simp] theorem State.setSur_bassDepth (h : Surround) : (State.setSur h s).bassDepth = s.bassDepth := rfl
@[simp] theorem State.setSur_bassRange (h : Surround) : (State.setSur h s).bassRange = s.bassRange := rfl
@[simp] theorem State.setSur_surDepth (h : Surround) : (State.setSur h s).surDepth = s.surDepth := rfl
@[simp] theorem State.setSur_surDelay (h : Surround) : (State.setSur h s).surDelay = s.surDelay := rfl
@[simp] theorem State.setSur_rvb (h : Surround) : (State.setSur h s).rvb = s.rvb := rfl
@[simp] theorem State.setSur_sur (h : Surround) : (State.setSur h s).sur = h := rfl
@[simp] theorem State.setSur_bass (h : Surround) : (State.setSur h s).bass = s.bass := rfl
@[simp] theorem State.setSur_nr (h : Surround) : (State.setSur h s).nr = s.nr := rfl
@[simp] theorem State.setSur_mix (h : Surround) : (State.setSur h s).mix = s.mix := rfl
@[simp] theorem State.setSur_dry (h : Surround) : (State.setSur h s).dry = s.dry := rfl
@[simp] theorem State.setSur_resets (h : Surround) : (State.setSur h s).resets = s.resets := rfl
@[simp] theorem State.setSur_port (h : Surround) : (State.setSur h s).port = s.port := rfl
@[simp] theorem State.setSur_reply (h : Surround) : (State.setSur h s).reply = s.reply := rfl

@[simp] theorem State.setBass_fault (h : Bass) : (State.setBass h s).fault = s.fault := rfl
@[simp] theorem State.setBass_cause (h : Bass) : (State.setBass h s).cause = s.cause := rfl
@[simp] theorem State.setBass_faultInfo (h : Bass) : (State.setBass h s).faultInfo = s.faultInfo := rfl
@[simp] theorem State.setBass_flags (h : Bass) : (State.setBass h s).flags = s.flags := rfl
@[simp] theorem State.setBass_rate (h : Bass) : (State.setBass h s).rate = s.rate := rfl
@[simp] theorem State.setBass_rvbDepth (h : Bass) : (State.setBass h s).rvbDepth = s.rvbDepth := rfl
@[simp] theorem State.setBass_rvbDelay (h : Bass) : (State.setBass h s).rvbDelay = s.rvbDelay := rfl
@[simp] theorem State.setBass_bassDepth (h : Bass) : (State.setBass h s).bassDepth = s.bassDepth := rfl
@[simp] theorem State.setBass_bassRange (h : Bass) : (State.setBass h s).bassRange = s.bassRange := rfl
@[simp] theorem State.setBass_surDepth (h : Bass) : (State.setBass h s).surDepth = s.surDepth := rfl
@[simp] theorem State.setBass_surDelay (h : Bass) : (State.setBass h s).surDelay = s.surDelay := rfl
@[simp] theorem State.setBass_rvb (h : Bass) : (State.setBass h s).rvb = s.rvb := rfl
@[simp] theorem State.setBass_sur (h : Bass) : (State.setBass h s).sur = s.sur := rfl
@[simp] theorem State.setBass_bass (h : Bass) : (State.setBass h s).bass = h := rfl
@[simp] theorem State.setBass_nr (h : Bass) : (State.setBass h s).nr = s.nr := rfl
@[simp] theorem State.setBass_mix (h : Bass) : (State.setBass h s).mix = s.mix := rfl
@[simp] theorem State.setBass_dry (h : Bass) : (State.setBass h s).dry = s.dry := rfl
@[simp] theorem State.setBass_resets (h : Bass) : (State.setBass h s).resets = s.resets := rfl
@[simp] theorem State.setBass_port (h : Bass) : (State.setBass h s).port = s.port := rfl
@[simp] theorem State.setBass_reply (h : Bass) : (State.setBass h s).reply = s.reply := rfl

@[simp] theorem State.setNr_fault (h : Noise) : (State.setNr h s).fault = s.fault := rfl
@[simp] theorem State.setNr_cause (h : Noise) : (State.setNr h s).cause = s.cause := rfl
@[simp] theorem State.setNr_faultInfo (h : Noise) : (State.setNr h s).faultInfo = s.faultInfo := rfl
@[simp] theorem State.setNr_flags (h : Noise) : (State.setNr h s).flags = s.flags := rfl
@[simp] theorem State.setNr_rate (h : Noise) : (State.setNr h s).rate = s.rate := rfl
@[simp] theorem State.setNr_rvbDepth (h : Noise) : (State.setNr h s).rvbDepth = s.rvbDepth := rfl
@[simp] theorem State.setNr_rvbDelay (h : Noise) : (State.setNr h s).rvbDelay = s.rvbDelay := rfl
@[simp] theorem State.setNr_bassDepth (h : Noise) : (State.setNr h s).bassDepth = s.bassDepth := rfl
@[simp] theorem State.setNr_bassRange (h : Noise) : (State.setNr h s).bassRange = s.bassRange := rfl
@[simp] theorem State.setNr_surDepth (h : Noise) : (State.setNr h s).surDepth = s.surDepth := rfl
@[simp] theorem State.setNr_surDelay (h : Noise) : (State.setNr h s).surDelay = s.surDelay := rfl
@[simp] theorem State.setNr_rvb (h : Noise) : (State.setNr h s).rvb = s.rvb := rfl
@[simp] theorem State.setNr_sur (h : Noise) : (State.setNr h s).sur = s.sur := rfl
@[simp] theorem State.setNr_bass (h : Noise) : (State.setNr h s).bass = s.bass := rfl
@[simp] theorem State.setNr_nr (h : Noise) : (State.setNr h s).nr = h := rfl
@[simp] theorem State.setNr_mix (h : Noise) : (State.setNr h s).mix = s.mix := rfl
@[simp] theorem State.setNr_dry (h : Noise) : (State.setNr h s).dry = s.dry := rfl
@[simp] theorem State.setNr_resets (h : Noise) : (State.setNr h s).resets = s.resets := rfl
@[simp] theorem State.setNr_port (h : Noise) : (State.setNr h s).port = s.port := rfl
@[simp] theorem State.setNr_reply (h : Noise) : (State.setNr h s).reply = s.reply := rfl

@[simp] theorem State.setMix_fault (m : Memory) : (State.setMix m s).fault = s.fault := rfl
@[simp] theorem State.setMix_cause (m : Memory) : (State.setMix m s).cause = s.cause := rfl
@[simp] theorem State.setMix_faultInfo (m : Memory) : (State.setMix m s).faultInfo = s.faultInfo := rfl
@[simp] theorem State.setMix_flags (m : Memory) : (State.setMix m s).flags = s.flags := rfl
@[simp] theorem State.setMix_rate (m : Memory) : (State.setMix m s).rate = s.rate := rfl
@[simp] theorem State.setMix_rvbDepth (m : Memory) : (State.setMix m s).rvbDepth = s.rvbDepth := rfl
@[simp] theorem State.setMix_rvbDelay (m : Memory) : (State.setMix m s).rvbDelay = s.rvbDelay := rfl
@[simp] theorem State.setMix_bassDepth (m : Memory) : (State.setMix m s).bassDepth = s.bassDepth := rfl
@[simp] theorem State.setMix_bassRange (m : Memory) : (State.setMix m s).bassRange = s.bassRange := rfl
@[simp] theorem State.setMix_surDepth (m : Memory) : (State.setMix m s).surDepth = s.surDepth := rfl
@[simp] theorem State.setMix_surDelay (m : Memory) : (State.setMix m s).surDelay = s.surDelay := rfl
@[simp] theorem State.setMix_rvb (m : Memory) : (State.setMix m s).rvb = s.rvb := rfl
@[simp] theorem State.setMix_sur (m : Memory) : (State.setMix m s).sur = s.sur := rfl
@[simp] theorem State.setMix_bass (m : Memory) : (State.setMix m s).bass = s.bass := rfl
@[simp] theorem State.setMix_nr (m : Memory) : (State.setMix m s).nr = s.nr := rfl
@[simp] theorem State.setMix_mix (m : Memory) : (State.setMix m s).mix = m := rfl
@[simp] theorem State.setMix_dry (m : Memory) : (State.setMix m s).dry = s.dry := rfl
@[simp] theorem State.setMix_resets (m : Memory) : (State.setMix m s).resets = s.resets := rfl
@[simp] theorem State.setMix_port (m : Memory) : (State.setMix m s).port = s.port := rfl
@[simp] theorem State.setMix_reply (m : Memory) : (State.setMix m s).reply = s.reply := rfl

@[simp] theorem State.setDry_fault (m : Memory) : (State.setDry m s).fault = s.fault := rfl
@[simp] theorem State.setDry_cause (m : Memory) : (State.setDry m s).cause = s.cause := rfl
@[simp] theorem State.setDry_faultInfo (m : Memory) : (State.setDry m s).faultInfo = s.faultInfo := rfl
@[simp] theorem State.setDry_flags (m : Memory) : (State.setDry m s).flags = s.flags := rfl
@[simp] theorem State.setDry_rate (m : Memory) : (State.setDry m s).rate = s.rate := rfl
@[simp] theorem State.setDry_rvbDepth (m : Memory) : (State.setDry m s).rvbDepth = s.rvbDepth := rfl
@[simp] theorem State.setDry_rvbDelay (m : Memory) : (State.setDry m s).rvbDelay = s.rvbDelay := rfl
@[simp] theorem State.setDry_bassDepth (m : Memory) : (State.setDry m s).bassDepth = s.bassDepth := rfl
@[simp] theorem State.setDry_bassRange (m : Memory) : (State.setDry m s).bassRange = s.bassRange := rfl
@[simp] theorem State.setDry_surDepth (m : Memory) : (State.setDry m s).surDepth = s.surDepth := rfl
@[simp] theorem State.setDry_surDelay (m : Memory) : (State.setDry m s).surDelay = s.surDelay := rfl
@[simp] theorem State.setDry_rvb (m : Memory) : (State.setDry m s).rvb = s.rvb := rfl
@[simp] theorem State.setDry_sur (m : Memory) : (State.setDry m s).sur = s.sur := rfl
@[simp] theorem State.setDry_bass (m : Memory) : (State.setDry m s).bass = s.bass := rfl
@[simp] theorem State.setDry_nr (m : Memory) : (State.setDry m s).nr = s.nr := rfl
@[simp] theorem State.setDry_mix (m : Memory) : (State.setDry m s).mix = s.mix := rfl
@[simp] theorem State.setDry_dry (m : Memory) : (State.setDry m s).dry = m := rfl
@[simp] theorem State.setDry_resets (m : Memory) : (State.setDry m s).resets = s.resets := rfl
@[simp] theorem State.setDry_port (m : Memory) : (State.setDry m s).port = s.port := rfl
@[simp] theorem State.setDry_reply (m : Memory) : (State.setDry m s).reply = s.reply := rfl

@[simp] theorem State.setPort_fault (p : List HostAction) : (State.setPort p s).fault = s.fault := rfl
@[simp] theorem State.setPort_cause (p : List HostAction) : (State.setPort p s).cause = s.cause := rfl
@[simp] theorem State.setPort_faultInfo (p : List HostAction) : (State.setPort p s).faultInfo = s.faultInfo := rfl
@[simp] theorem State.setPort_flags (p : List HostAction) : (State.setPort p s).flags = s.flags := rfl
@[simp] theorem State.setPort_rate (p : List HostAction) : (State.setPort p s).rate = s.rate := rfl
@[simp] theorem State.setPort_rvbDepth (p : List HostAction) : (State.setPort p s).rvbDepth = s.rvbDepth := rfl
@[simp] theorem State.setPort_rvbDelay (p : List HostAction) : (State.setPort p s).rvbDelay = s.rvbDelay := rfl
@[simp] theorem State.setPort_bassDepth (p : List HostAction) : (State.setPort p s).bassDepth = s.bassDepth := rfl
@[simp] theorem State.setPort_bassRange (p : List HostAction) : (State.setPort p s).bassRange = s.bassRange := rfl
@[simp] theorem State.setPort_surDepth (p : List HostAction) : (State.setPort p s).surDepth = s.surDepth := rfl
@[simp] theorem State.setPort_surDelay (p : List HostAction) : (State.setPort p s).surDelay = s.surDelay := rfl
@[simp] theorem State.setPort_rvb (p : List HostAction) : (State.setPort p s).rvb = s.rvb := rfl
@[simp] theorem State.setPort_sur (p : List HostAction) : (State.setPort p s).sur = s.sur := rfl
@[simp] theorem State.setPort_bass (p : List HostAction) : (State.setPort p s).bass = s.bass := rfl
@[simp] theorem State.setPort_nr (p : List HostAction) : (State.setPort p s).nr = s.nr := rfl
@[simp] theorem State.setPort_mix (p : List HostAction) : (State.setPort p s).mix = s.mix := rfl
@[simp] theorem State.setPort_dry (p : List HostAction) : (State.setPort p s).dry = s.dry := rfl
@[simp] theorem State.setPort_resets (p : List HostAction) : (State.setPort p s).resets = s.resets := rfl
@[simp] theorem State.setPort_port (p : List HostAction) : (State.setPort p s).port = p := rfl
@[simp] theorem State.setPort_reply (p : List HostAction) : (State.setPort p s).reply = s.reply := rfl

@[simp] theorem State.setReply_fault (r : Option Word) : (State.setReply r s).fault = s.fault := rfl
@[simp] theorem State.setReply_cause (r : Option Word) : (State.setReply r s).cause = s.cause := rfl
@[simp] theorem State.setReply_faultInfo (r : Option Word) : (State.setReply r s).faultInfo = s.faultInfo := rfl
@[simp] theorem State.setReply_flags (r : Option Word) : (State.setReply r s).flags = s.flags := rfl
@[simp] theorem State.setReply_rate (r : Option Word) : (State.setReply r s).rate = s.rate := rfl
@[simp] theorem State.setReply_rvbDepth (r : Option Word) : (State.setReply r s).rvbDepth = s.rvbDepth := rfl
@[simp] theorem State.setReply_rvbDelay (r : Option Word) : (State.setReply r s).rvbDelay = s.rvbDelay := rfl
@[simp] theorem State.setReply_bassDepth (r : Option Word) : (State.setReply r s).bassDepth = s.bassDepth := rfl
@[simp] theorem State.setReply_bassRange (r : Option Word) : (State.setReply r s).bassRange = s.bassRange := rfl
@[simp] theorem State.setReply_surDepth (r : Option Word) : (State.setReply r s).surDepth = s.surDepth := rfl
@[simp] theorem State.setReply_surDelay (r : Option Word) : (State.setReply r s).surDelay = s.surDelay := rfl
@[simp] theorem State.setReply_rvb (r : Option Word) : (State.setReply r s).rvb = s.rvb := rfl
@[simp] theorem State.setReply_sur (r : Option Word) : (State.setReply r s).sur = s.sur := rfl
@[simp] theorem State.setReply_bass (r : Option Word) : (State.setReply r s).bass = s.bass := rfl
@[simp] theorem State.setReply_nr (r : Option Word) : (State.setReply r s).nr = s.nr := rfl
@[simp] theorem State.setReply_mix (r : Option Word) : (State.setReply r s).mix = s.mix := rfl
@[simp] theorem State.setReply_dry (r : Option Word) : (State.setReply r s).dry = s.dry := rfl
@[simp] theorem State.setReply_resets (r : Option Word) : (State.setReply r s).resets = s.resets := rfl
@[simp] theorem State.setReply_port (r : Option Word) : (State.setReply r s).port = s.port := rfl
@[simp] theorem State.setReply_reply (r : Option Word) : (State.setReply r s).reply = r := rfl

@[simp] theorem raise_fault (c : Cause) (x : Word) : (raise c x s).fault = true := rfl
@[simp] theorem raise_cause (c : Cause) (x : Word) : (raise c x s).cause = c.code := rfl
@[simp] theorem raise_faultInfo (c : Cause) (x : Word) : (raise c x s).faultInfo = x := rfl
@[simp] theorem raise_flags (c : Cause) (x : Word) : (raise c x s).flags = s.flags := rfl
@[simp] theorem raise_rate (c : Cause) (x : Word) : (raise c x s).rate = s.rate := rfl
@[simp] theorem raise_rvbDepth (c : Cause) (x : Word) : (raise c x s).rvbDepth = s.rvbDepth := rfl
@[simp] theorem raise_rvbDelay (c : Cause) (x : Word) : (raise c x s).rvbDelay = s.rvbDelay := rfl
@[simp] theorem raise_bassDepth (c : Cause) (x : Word) : (raise c x s).bassDepth = s.bassDepth := rfl
@[simp] theorem raise_bassRange (c : Cause) (x : Word) : (raise c x s).bassRange = s.bassRange := rfl
@[simp] theorem raise_surDepth (c : Cause) (x : Word) : (raise c x s).surDepth = s.surDepth := rfl
@[simp] theorem raise_surDelay (c : Cause) (x : Word) : (raise c x s).surDelay = s.surDelay := rfl
@[simp] theorem raise_rvb (c : Cause) (x : Word) : (raise c x s).rvb = s.rvb := rfl
@[simp] theorem raise_sur (c : Cause) (x : Word) : (raise c x s).sur = s.sur := rfl
@[simp] theorem raise_bass (c : Cause) (x : Word) : (raise c x s).bass = s.bass := rfl
@[simp] theorem raise_nr (c : Cause) (x : Word) : (raise c x s).nr = s.nr := rfl
@[simp] theorem raise_mix (c : Cause) (x : Word) : (raise c x s).mix = s.mix := rfl
@[simp] theorem raise_dry (c : Cause) (x : Word) : (raise c x s).dry = s.dry := rfl
@[simp] theorem raise_resets (c : Cause) (x : Word) : (raise c x s).resets = s.resets := rfl
@[simp] theorem raise_port (c : Cause) (x : Word) : (raise c x s).port = s.port := rfl
@[simp] theorem raise_reply (c : Cause) (x : Word) : (raise c x s).reply = s.reply := rfl

@[simp] theorem taken_fault (p : List HostAction) : (taken p s).fault = s.fault := rfl
@[simp] theorem taken_cause (p : List HostAction) : (taken p s).cause = s.cause := rfl
@[simp] theorem taken_faultInfo (p : List HostAction) : (taken p s).faultInfo = s.faultInfo := rfl
@[simp] theorem taken_flags (p : List HostAction) : (taken p s).flags = s.flags := rfl
@[simp] theorem taken_rate (p : List HostAction) : (taken p s).rate = s.rate := rfl
@[simp] theorem taken_rvbDepth (p : List HostAction) : (taken p s).rvbDepth = s.rvbDepth := rfl
@[simp] theorem taken_rvbDelay (p : List HostAction) : (taken p s).rvbDelay = s.rvbDelay := rfl
@[simp] theorem taken_bassDepth (p : List HostAction) : (taken p s).bassDepth = s.bassDepth := rfl
@[simp] theorem taken_bassRange (p : List HostAction) : (taken p s).bassRange = s.bassRange := rfl
@[simp] theorem taken_surDepth (p : List HostAction) : (taken p s).surDepth = s.surDepth := rfl
@[simp] theorem taken_surDelay (p : List HostAction) : (taken p s).surDelay = s.surDelay := rfl
@[simp] theorem taken_rvb (p : List HostAction) : (taken p s).rvb = s.rvb := rfl
@[simp] theorem taken_sur (p : List HostAction) : (taken p s).sur = s.sur := rfl
@[simp] theorem taken_bass (p : List HostAction) : (taken p s).bass = s.bass := rfl
@[simp] theorem taken_nr (p : List HostAction) : (taken p s).nr = s.nr := rfl
@[simp] theorem taken_mix (p : List HostAction) : (taken p s).mix = s.mix := rfl
@[simp] theorem taken_dry (p : List HostAction) : (taken p s).dry = s.dry := rfl
@[simp] theorem taken_resets (p : List HostAction) : (taken p s).resets = s.resets := rfl
@[simp] theorem taken_port (p : List HostAction) : (taken p s).port = p := rfl
@[simp] theorem taken_reply (p : List HostAction) : (taken p s).reply = none := rfl

@[simp] theorem writePair_fault (i : Nat) (l r : Word) : (writePair i l r s).fault = s.fault := rfl
@[simp] theorem writePair_cause (i : Nat) (l r : Word) : (writePair i l r s).cause = s.cause := rfl
@[simp] theorem writePair_faultInfo (i : Nat) (l r : Word) : (writePair i l r s).faultInfo = s.faultInfo := rfl
@[simp] theorem writePair_flags (i : Nat) (l r : Word) : (writePair i l r s).flags = s.flags := rfl
@[simp] theorem writePair_rate (i : Nat) (l r : Word) : (writePair i l r s).rate = s.rate := rfl
@[simp] theorem writePair_rvbDepth (i : Nat) (l r : Word) : (writePair i l r s).rvbDepth = s.rvbDepth := rfl
@[simp] theorem writePair_rvbDelay (i : Nat) (l r : Word) : (writePair i l r s).rvbDelay = s.rvbDelay := rfl
@[simp] theorem writePair_bassDepth (i : Nat) (l r : Word) : (writePair i l r s).bassDepth = s.bassDepth := rfl
@[simp] theorem writePair_bassRange (i : Nat) (l r : Word) : (writePair i l r s).bassRange = s.bassRange := rfl
@[simp] theorem writePair_surDepth (i : Nat) (l r : Word) : (writePair i l r s).surDepth = s.surDepth := rfl
@[simp] theorem writePair_surDelay (i : Nat) (l r : Word) : (writePair i l r s).surDelay = s.surDelay := rfl
@[simp] theorem writePair_rvb (i : Nat) (l r : Word) : (writePair i l r s).rvb = s.rvb := rfl
@[simp] theorem writePair_sur (i : Nat) (l r : Word) : (writePair i l r s).sur = s.sur := rfl
@[simp] theorem writePair_bass (i : Nat) (l r : Word) : (writePair i l r s).bass = s.bass := rfl
@[simp] theorem writePair_nr (i : Nat) (l r : Word) : (writePair i l r s).nr = s.nr := rfl
@[simp] theorem writePair_dry (i : Nat) (l r : Word) : (writePair i l r s).dry = s.dry := rfl
@[simp] theorem writePair_resets (i : Nat) (l r : Word) : (writePair i l r s).resets = s.resets := rfl
@[simp] theorem writePair_port (i : Nat) (l r : Word) : (writePair i l r s).port = s.port := rfl
@[simp] theorem writePair_reply (i : Nat) (l r : Word) : (writePair i l r s).reply = s.reply := rfl

@[simp] theorem writeMix_fault (j : Nat) (v : Word) : (writeMix j v s).fault = s.fault := rfl
@[simp] theorem writeMix_cause (j : Nat) (v : Word) : (writeMix j v s).cause = s.cause := rfl
@[simp] theorem writeMix_faultInfo (j : Nat) (v : Word) : (writeMix j v s).faultInfo = s.faultInfo := rfl
@[simp] theorem writeMix_flags (j : Nat) (v : Word) : (writeMix j v s).flags = s.flags := rfl
@[simp] theorem writeMix_rate (j : Nat) (v : Word) : (writeMix j v s).rate = s.rate := rfl
@[simp] theorem writeMix_rvbDepth (j : Nat) (v : Word) : (writeMix j v s).rvbDepth = s.rvbDepth := rfl
@[simp] theorem writeMix_rvbDelay (j : Nat) (v : Word) : (writeMix j v s).rvbDelay = s.rvbDelay := rfl
@[simp] theorem writeMix_bassDepth (j : Nat) (v : Word) : (writeMix j v s).bassDepth = s.bassDepth := rfl
@[simp] theorem writeMix_bassRange (j : Nat) (v : Word) : (writeMix j v s).bassRange = s.bassRange := rfl
@[simp] theorem writeMix_surDepth (j : Nat) (v : Word) : (writeMix j v s).surDepth = s.surDepth := rfl
@[simp] theorem writeMix_surDelay (j : Nat) (v : Word) : (writeMix j v s).surDelay = s.surDelay := rfl
@[simp] theorem writeMix_rvb (j : Nat) (v : Word) : (writeMix j v s).rvb = s.rvb := rfl
@[simp] theorem writeMix_sur (j : Nat) (v : Word) : (writeMix j v s).sur = s.sur := rfl
@[simp] theorem writeMix_bass (j : Nat) (v : Word) : (writeMix j v s).bass = s.bass := rfl
@[simp] theorem writeMix_nr (j : Nat) (v : Word) : (writeMix j v s).nr = s.nr := rfl
@[simp] theorem writeMix_mix (j : Nat) (v : Word) : (writeMix j v s).mix = memWrite none s.mix j v := rfl
@[simp] theorem writeMix_dry (j : Nat) (v : Word) : (writeMix j v s).dry = s.dry := rfl
@[simp] theorem writeMix_resets (j : Nat) (v : Word) : (writeMix j v s).resets = s.resets := rfl
@[simp] theorem writeMix_port (j : Nat) (v : Word) : (writeMix j v s).port = s.port := rfl
@[simp] theorem writeMix_reply (j : Nat) (v : Word) : (writeMix j v s).reply = s.reply := rfl

@[simp] theorem writeDry_fault (j : Nat) (v : Word) : (writeDry j v s).fault = s.fault := rfl
@[simp] theorem writeDry_cause (j : Nat) (v : Word) : (writeDry j v s).cause = s.cause := rfl
@[simp] theorem writeDry_faultInfo (j : Nat) (v : Word) : (writeDry j v s).faultInfo = s.faultInfo := rfl
@[simp] theorem writeDry_flags (j : Nat) (v : Word) : (writeDry j v s).flags = s.flags := rfl
@[simp] theorem writeDry_rate (j : Nat) (v : Word) : (writeDry j v s).rate = s.rate := rfl
@[simp] theorem writeDry_rvbDepth (j : Nat) (v : Word) : (writeDry j v s).rvbDepth = s.rvbDepth := rfl
@[simp] theorem writeDry_rvbDelay (j : Nat) (v : Word) : (writeDry j v s).rvbDelay = s.rvbDelay := rfl
@[simp] theorem writeDry_bassDepth (j : Nat) (v : Word) : (writeDry j v s).bassDepth = s.bassDepth := rfl
@[simp] theorem writeDry_bassRange (j : Nat) (v : Word) : (writeDry j v s).bassRange = s.bassRange := rfl
@[simp] theorem writeDry_surDepth (j : Nat) (v : Word) : (writeDry j v s).surDepth = s.surDepth := rfl
@[simp] theorem writeDry_surDelay (j : Nat) (v : Word) : (writeDry j v s).surDelay = s.surDelay := rfl
@[simp] theorem writeDry_rvb (j : Nat) (v : Word) : (writeDry j v s).rvb = s.rvb := rfl
@[simp] theorem writeDry_sur (j : Nat) (v : Word) : (writeDry j v s).sur = s.sur := rfl
@[simp] theorem writeDry_bass (j : Nat) (v : Word) : (writeDry j v s).bass = s.bass := rfl
@[simp] theorem writeDry_nr (j : Nat) (v : Word) : (writeDry j v s).nr = s.nr := rfl
@[simp] theorem writeDry_mix (j : Nat) (v : Word) : (writeDry j v s).mix = s.mix := rfl
@[simp] theorem writeDry_dry (j : Nat) (v : Word) : (writeDry j v s).dry = memWrite none s.dry j v := rfl
@[simp] theorem writeDry_resets (j : Nat) (v : Word) : (writeDry j v s).resets = s.resets := rfl
@[simp] theorem writeDry_port (j : Nat) (v : Word) : (writeDry j v s).port = s.port := rfl
@[simp] theorem writeDry_reply (j : Nat) (v : Word) : (writeDry j v s).reply = s.reply := rfl

end

end Sys2Proof.Machine
end

