-- ==== Sys2Proof/Laws/Memory.lean ====
section
/-! SUPPORT. The laws of the memories: a read after a write, the canonical form kept, writes at two indices exchanged. -/

namespace Sys2Proof.Machine

theorem lookup_memInsert (m : Memory) (a b : Nat) (v : Word) :
    (memInsert m a v).lookup b = if b = a then some v else m.lookup b := by
  induction m with
  | nil =>
    by_cases h : b = a
    · simp [memInsert, h]
    · have : (b == a) = false := by simpa using h
      simp [memInsert, List.lookup, h, this]
  | cons c m ih =>
    obtain ⟨k, u⟩ := c
    simp only [memInsert]
    split
    · by_cases h : b = a
      · subst h; simp [List.lookup]
      · have : (b == a) = false := by simpa using h
        simp [List.lookup, h, this]
    · split
      · rename_i _ h; subst h
        by_cases hb : b = a
        · subst hb; simp [List.lookup]
        · have : (b == a) = false := by simpa using hb
          simp [List.lookup, hb, this]
      · rename_i h1 h2
        by_cases hk : b = k
        · subst hk
          have : ¬ b = a := fun e => h2 e.symm
          simp [List.lookup, this]
        · have : (b == k) = false := by simpa using hk
          simp [List.lookup, this, ih]

theorem lookup_memErase (m : Memory) (a b : Nat) :
    (memErase m a).lookup b = if b = a then none else m.lookup b := by
  induction m with
  | nil => simp [memErase]
  | cons c m ih =>
    obtain ⟨k, u⟩ := c
    by_cases hk : k = a
    · subst hk
      have e : memErase ((k, u) :: m) k = memErase m k := by simp [memErase]
      rw [e, ih]
      by_cases hb : b = k
      · simp [hb]
      · have : (b == k) = false := by simpa using hb
        simp [hb, List.lookup, this]
    · have e : memErase ((k, u) :: m) a = (k, u) :: memErase m a := by simp [memErase, hk]
      rw [e]
      by_cases hb : b = k
      · subst hb; simp [List.lookup, hk]
      · have : (b == k) = false := by simpa using hb
        simp [List.lookup, this, ih]

/-- A read after a write gives the value written at its index and the old value at every other. -/
theorem memRead_memWrite (d : Option Word) (m : Memory) (a b : Nat) (v : Word) :
    memRead d (memWrite d m a v) b = if b = a then some v else memRead d m b := by
  unfold memRead memWrite
  by_cases hd : some v = d
  · rw [if_pos hd, lookup_memErase]
    by_cases h : b = a <;> simp [h, ← hd]
  · rw [if_neg hd, lookup_memInsert]
    by_cases h : b = a <;> simp [h]

/-- Ring entries: the entry written, every other as it was. -/
theorem ringRead_ringWrite (m : Memory) (a b : Nat) (v : Word) :
    ringRead (ringWrite m a v) b = if b = a then v else ringRead m b := by
  unfold ringRead ringWrite
  rw [memRead_memWrite]
  by_cases h : b = a <;> simp [h]

@[simp] theorem ringRead_nil (j : Nat) : ringRead [] j = 0 := rfl

@[simp] theorem mixWord_writeMix (s : State) (a j : Nat) (v : Word) :
    mixWord (writeMix a v s) j = if j = a then v else mixWord s j := by
  unfold mixWord
  rw [writeMix_mix, memRead_memWrite]
  by_cases h : j = a <;> simp [h]

@[simp] theorem dryWord_writeMix (s : State) (a j : Nat) (v : Word) : dryWord (writeMix a v s) j = dryWord s j := rfl

@[simp] theorem dryWord_writeDry (s : State) (a j : Nat) (v : Word) :
    dryWord (writeDry a v s) j = if j = a then v else dryWord s j := by
  unfold dryWord
  rw [writeDry_dry, memRead_memWrite]
  by_cases h : j = a <;> simp [h]

@[simp] theorem mixWord_writeDry (s : State) (a j : Nat) (v : Word) : mixWord (writeDry a v s) j = mixWord s j := rfl

/-- The words of `MIX` after a pair is written (R15). -/
theorem mixWord_writePair (s : State) (i j : Nat) (l r : Word) :
    mixWord (writePair i l r s) j = if j = 2 * i then l else if j = 2 * i + 1 then r else mixWord s j := by
  unfold writePair
  rw [mixWord_writeMix, mixWord_writeMix]
  by_cases h1 : j = 2 * i + 1
  · have : ¬ j = 2 * i := by omega
    simp [h1]
  · simp [h1]

/-! The words of the buffers depend on nothing but the buffer and the epoch. -/

theorem mixWord_congr {s t : State} (hm : t.mix = s.mix) (hr : t.resets = s.resets) (j : Nat) :
    mixWord t j = mixWord s j := by unfold mixWord; rw [hm, hr]

theorem dryWord_congr {s t : State} (hm : t.dry = s.dry) (hr : t.resets = s.resets) (j : Nat) :
    dryWord t j = dryWord s j := by unfold dryWord; rw [hm, hr]

/-! The canonical form. -/

theorem risingFrom_weaken {m : Memory} {lo lo' : Nat} (h : risingFrom lo m = true) (hl : lo' ≤ lo) :
    risingFrom lo' m = true := by
  cases m with
  | nil => rfl
  | cons c m =>
    obtain ⟨a, v⟩ := c
    simp only [risingFrom, Bool.and_eq_true, decide_eq_true_eq] at h ⊢
    exact ⟨by omega, h.2⟩

theorem risingFrom_memErase {m : Memory} {lo : Nat} (a : Nat) (h : risingFrom lo m = true) :
    risingFrom lo (memErase m a) = true := by
  induction m generalizing lo with
  | nil => rfl
  | cons c m ih =>
    obtain ⟨k, u⟩ := c
    simp only [risingFrom, Bool.and_eq_true, decide_eq_true_eq] at h
    by_cases hk : k = a
    · have e : memErase ((k, u) :: m) a = memErase m a := by simp [memErase, hk]
      rw [e]
      exact ih (risingFrom_weaken h.2 (by omega))
    · have e : memErase ((k, u) :: m) a = (k, u) :: memErase m a := by simp [memErase, hk]
      rw [e]
      simp only [risingFrom, Bool.and_eq_true, decide_eq_true_eq]
      exact ⟨h.1, ih h.2⟩

theorem risingFrom_memInsert {m : Memory} {lo a : Nat} (v : Word) (h : risingFrom lo m = true) (ha : lo ≤ a) :
    risingFrom lo (memInsert m a v) = true := by
  induction m generalizing lo with
  | nil => simpa [memInsert, risingFrom] using ha
  | cons c m ih =>
    obtain ⟨k, u⟩ := c
    simp only [risingFrom, Bool.and_eq_true, decide_eq_true_eq] at h
    simp only [memInsert]
    split
    · simp only [risingFrom, Bool.and_eq_true, decide_eq_true_eq]
      exact ⟨ha, by omega, h.2⟩
    · split
      · rename_i _ hk; subst hk
        simp only [risingFrom, Bool.and_eq_true, decide_eq_true_eq]
        exact h
      · simp only [risingFrom, Bool.and_eq_true, decide_eq_true_eq]
        exact ⟨h.1, ih h.2 (by omega)⟩

theorem mem_memInsert {m : Memory} {a : Nat} {v : Word} {c : Nat × Word} (h : c ∈ memInsert m a v) :
    c = (a, v) ∨ c ∈ m := by
  induction m with
  | nil => left; simpa [memInsert] using h
  | cons b m ih =>
    obtain ⟨k, u⟩ := b
    simp only [memInsert] at h
    split at h
    · simpa using h
    · split at h
      · rcases List.mem_cons.1 h with h | h
        · exact .inl h
        · exact .inr (List.mem_cons_of_mem _ h)
      · rcases List.mem_cons.1 h with h | h
        · exact .inr (h ▸ List.mem_cons_self)
        · rcases ih h with h | h
          · exact .inl h
          · exact .inr (List.mem_cons_of_mem _ h)

/-- Every write below the size keeps the canonical form. -/
theorem memWrite_wf {size : Nat} {d : Option Word} {m : Memory} {a : Nat} (v : Word)
    (h : Memory.wf size d m = true) (ha : a < size) : Memory.wf size d (memWrite d m a v) = true := by
  simp only [Memory.wf, Bool.and_eq_true, List.all_eq_true, decide_eq_true_eq] at h ⊢
  unfold memWrite
  split
  · refine ⟨risingFrom_memErase a h.1, fun c hc => h.2 c ?_⟩
    exact List.mem_of_mem_filter hc
  · rename_i hv
    refine ⟨risingFrom_memInsert v h.1 (Nat.zero_le a), fun c hc => ?_⟩
    rcases mem_memInsert hc with rfl | hc
    · exact ⟨ha, hv⟩
    · exact h.2 c hc

theorem ringWrite_wf {size : Nat} {m : Memory} {a : Nat} (v : Word) (h : Memory.wf size (some 0) m = true)
    (ha : a < size) : Memory.wf size (some 0) (ringWrite m a v) = true := memWrite_wf v h ha

/-- Insertions at two different indices of a rising memory commute. -/
theorem memInsert_comm {m : Memory} {lo a b : Nat} (u v : Word) (h : risingFrom lo m = true) (hab : a ≠ b) :
    memInsert (memInsert m a u) b v = memInsert (memInsert m b v) a u := by
  induction m generalizing lo with
  | nil => grind [memInsert]
  | cons c m ih =>
    obtain ⟨k, w⟩ := c
    simp only [risingFrom, Bool.and_eq_true, decide_eq_true_eq] at h
    have ih' := ih h.2
    grind [memInsert]

/-- Writes of buffer words at two different indices commute. -/
theorem memWrite_none_comm {m : Memory} {a b : Nat} (u v : Word) (h : risingFrom 0 m = true) (hab : a ≠ b) :
    memWrite none (memWrite none m a u) b v = memWrite none (memWrite none m b v) a u := by
  simpa [memWrite] using memInsert_comm u v h hab

/-! The sum over the whole capacity. -/

theorem ringTotal_ringWrite (m : Memory) (a : Nat) (v : Word) (n : Nat) :
    ringTotal (ringWrite m a v) n =
      if a < n then ringTotal m n - (ringRead m a).toInt + v.toInt else ringTotal m n := by
  induction n with
  | zero => simp [ringTotal]
  | succ n ih =>
    simp only [ringTotal, ih, ringRead_ringWrite]
    by_cases h1 : a < n
    · have h2 : a < n + 1 := by omega
      have h3 : ¬ n = a := by omega
      simp only [h1, h2, h3, if_true, if_false]; omega
    · by_cases h4 : n = a
      · subst h4; simp
      · have h2 : ¬ a < n + 1 := by omega
        simp [h1, h2, h4]

@[simp] theorem ringTotal_nil (n : Nat) : ringTotal [] n = 0 := by
  induction n with
  | zero => rfl
  | succ n ih => simp [ringTotal, ih]

end Sys2Proof.Machine
end

