-- ==== Sys2Proof/Laws/Signal.lean ====
section
/-! SUPPORT. Signal arithmetic in exact integers (R10, R11). -/

namespace Sys2Proof.Machine

/-- R10: `wrap32` of an integer, as an integer. -/
theorem wrap32_toInt (x : Int) : (wrap32 x).toInt = x.bmod (2 ^ 32) := BitVec.toInt_ofInt x

/-- R10: a sum of words is `wrap32` of the exact sum. -/
theorem add_eq_wrap32 (a b : Word) : a + b = wrap32 (a.toInt + b.toInt) := by
  simp [wrap32, BitVec.ofInt_add]

theorem sub_eq_wrap32 (a b : Word) : a - b = wrap32 (a.toInt - b.toInt) := by
  apply BitVec.eq_of_toInt_eq; simp [wrap32, BitVec.toInt_sub]

theorem mul_eq_wrap32 (a b : Word) : a * b = wrap32 (a.toInt * b.toInt) := by
  simp [wrap32, BitVec.ofInt_mul]

@[simp] theorem wrap32_toInt_self (a : Word) : wrap32 a.toInt = a := BitVec.ofInt_toInt

/-- R10: a sum may be wrapped at the end or after every term. -/
theorem wrap32_add (x y : Int) : wrap32 (x + y) = wrap32 x + wrap32 y := BitVec.ofInt_add x y

theorem wrap32_sub (x y : Int) : wrap32 (x - y) = wrap32 x - wrap32 y := by
  rw [Int.sub_eq_add_neg, wrap32_add, BitVec.sub_eq_add_neg]; congr 1; exact BitVec.ofInt_neg

theorem wrap32_mul (x y : Int) : wrap32 (x * y) = wrap32 x * wrap32 y := BitVec.ofInt_mul x y

/-- R11: `asr` is the floor of the exact quotient. -/
theorem asr_toInt (x : Word) (n : Nat) : (asr x n).toInt = x.toInt / 2 ^ n := by
  unfold asr
  rw [BitVec.toInt_sshiftRight, Int.shiftRight_eq_div_pow]
  norm_cast

theorem wrap32_natCast (n : Nat) : wrap32 (n : Int) = BitVec.ofNat 32 n := BitVec.ofInt_natCast 32 n

theorem asr_eq_wrap32 (x : Word) (n : Nat) : asr x n = wrap32 (x.toInt / 2 ^ n) := by
  rw [← asr_toInt, wrap32_toInt_self]

end Sys2Proof.Machine
end

