-- ==== Sys2Proof/Laws/Ring.lean ====
section
/-! SUPPORT. What the ring components can do (40_mask_ring_runsum.md), each said once. -/

namespace Sys2Proof.Machine

/-! The default parameters (R7) as numbers. -/

@[simp] theorem config_blockCapacity : config.blockCapacity = 512 := rfl
@[simp] theorem config_maxReverb : config.maxReverb = 10000 := rfl
@[simp] theorem config_maxReverb2 : config.maxReverb2 = 7647 := rfl
@[simp] theorem config_maxReverb3 : config.maxReverb3 = 5384 := rfl
@[simp] theorem config_maxReverb4 : config.maxReverb4 = 3684 := rfl
@[simp] theorem config_maxSurround : config.maxSurround = 2500 := rfl
@[simp] theorem config_maxBassWindow : config.maxBassWindow = 64 := rfl
@[simp] theorem config_dolbyRound : config.dolbyRound = 31 := rfl
@[simp] theorem config_dolbyShift : config.dolbyShift = 7 := rfl
@[simp] theorem config_dolbyLoShift : config.dolbyLoShift = 6 := rfl
@[simp] theorem bassRingCap_eq : bassRingCap = 128 := by decide
@[simp] theorem bufferSize_eq : bufferSize = 1024 := rfl

/-- R100: for `n ≥ 1` the value is `2^k − 1` with `2^(k−1) ≤ n < 2^k`. -/
theorem maskOf_spec {n : Nat} (h : 1 ≤ n) : ∃ k, 1 ≤ k ∧ maskOf n + 1 = 2 ^ k ∧ 2 ^ (k - 1) ≤ n ∧ n < 2 ^ k := by
  refine ⟨Nat.log2 n + 1, by omega, ?_, ?_, ?_⟩
  · have : 0 < 2 ^ (Nat.log2 n + 1) := Nat.two_pow_pos _
    rw [maskOf, if_neg (by omega)]; omega
  · simpa using Nat.log2_self_le (by omega)
  · exact Nat.lt_log2_self

/-- `MASK(n) + 1` is a power of two (R100, R38). -/
theorem maskOf_pow (n : Nat) : ∃ k, maskOf n + 1 = 2 ^ k := by
  rcases Nat.eq_zero_or_pos n with rfl | h
  · exact ⟨0, rfl⟩
  · obtain ⟨k, _, hk, _⟩ := maskOf_spec h; exact ⟨k, hk⟩

/-- R124 (d): for a window within its cap the mask is below `BASS_RING_CAP`. -/
theorem maskOf_le {n : Nat} (h : n ≤ 64) : maskOf n ≤ 127 := by
  interval_cases n <;> decide

/-- The position after an advance by mask is at most the mask (R101). -/
theorem advanceByMask_le {w : Nat} (m : Nat) (p : BitVec w) : (advanceByMask m p).toNat ≤ m := by
  unfold advanceByMask
  rw [BitVec.toNat_ofNat]
  exact le_trans (Nat.mod_le _ _) Nat.and_le_right

theorem advanceByMask_spec {w m : Nat} (p : BitVec w) (hm : m < 2 ^ w) : MaskAdvanced m p (advanceByMask m p) := by
  unfold MaskAdvanced advanceByMask
  rw [BitVec.toNat_ofNat]
  exact Nat.mod_eq_of_lt (lt_of_le_of_lt Nat.and_le_right hm)

/-- R103, for a position that has a successor in its register. -/
theorem advanceBySize_spec {w n : Nat} (p : BitVec w) (hp : p.toNat + 1 < 2 ^ w) :
    SizeAdvanced n p (advanceBySize n p) := by
  unfold SizeAdvanced advanceBySize
  split
  · simp
  · rw [BitVec.toNat_ofNat, Nat.mod_eq_of_lt hp]

/-- An advance by a size within the capacity stays within it (R38). -/
theorem advanceBySize_lt {w n cap : Nat} (p : BitVec w) (hn : n ≤ cap) (hc : 0 < cap) :
    (advanceBySize n p).toNat < cap := by
  unfold advanceBySize
  split
  · simpa using hc
  · rw [BitVec.toNat_ofNat]
    exact lt_of_le_of_lt (Nat.mod_le _ _) (by omega)

theorem ringPut_updated {w : Nat} (v : Word) (r : Ring w) : RingUpdated r.mem (ringPut v r).mem r.pos.toNat v :=
  fun k => ringRead_ringWrite r.mem r.pos.toNat k v

theorem ringPutMask_spec {w m : Nat} (v : Word) (r : Ring w) (hm : m < 2 ^ w) : DelayMasked m v r (ringPutMask m v r) :=
  ⟨ringPut_updated v r, advanceByMask_spec r.pos hm⟩

theorem ringPutSize_spec {w n : Nat} (v : Word) (r : Ring w) (hp : r.pos.toNat + 1 < 2 ^ w) :
    DelaySized n v r (ringPutSize n v r) :=
  ⟨ringPut_updated v r, advanceBySize_spec r.pos hp⟩

theorem sumStep_sum {w : Nat} (m : Nat) (v : Word) (f : SumRing w) : (sumStep m v f).sum = sumAfter f v := by
  unfold sumAfter
  rw [wrap32_add, wrap32_sub]; simp [sumStep]

/-- `RSUM.STEP` (R102). -/
theorem sumStep_spec {w m : Nat} (v : Word) (f : SumRing w) (hm : m < 2 ^ w) : SumStepped m v f (sumStep m v f) :=
  ⟨sumStep_sum m v f, fun k => ringRead_ringWrite f.mem f.pos.toNat k v, advanceByMask_spec f.pos hm⟩

/-- R104: a step at a position below the capacity keeps the running-sum invariant, whatever the mask. -/
theorem sumStep_holds {w cap : Nat} (m : Nat) (v : Word) {f : SumRing w} (h : f.holds cap) (hp : f.pos.toNat < cap) :
    (sumStep m v f).holds cap := by
  unfold SumRing.holds at h ⊢
  have e : (sumStep m v f).mem = ringWrite f.mem f.pos.toNat v := rfl
  rw [sumStep_sum, e, ringTotal_ringWrite, if_pos hp]
  unfold sumAfter
  rw [wrap32_add, wrap32_sub, wrap32_add, wrap32_sub, wrap32_toInt_self, h]

/-- A cleared filter satisfies the invariant (R126 to R128). -/
theorem cleared_holds {w : Nat} (cap : Nat) : (SumRing.cleared : SumRing w).holds cap := by
  simp [SumRing.holds, SumRing.cleared, wrap32]

@[simp] theorem ringTap_toInt {w : Nat} (r : Ring w) : (ringTap r).toInt = tapInt r := rfl

theorem ringTap_eq {w : Nat} (r : Ring w) : ringTap r = wrap32 (tapInt r) := by
  rw [← ringTap_toInt, wrap32_toInt_self]

theorem ringZero_nil : RingZero [] := fun _ => rfl

theorem lineCleared_cleared {w : Nat} : LineCleared (Ring.cleared : Ring w) := ⟨ringZero_nil, rfl⟩

theorem filterCleared_cleared {w : Nat} : FilterCleared (SumRing.cleared : SumRing w) := ⟨ringZero_nil, rfl, rfl⟩

end Sys2Proof.Machine
end

