-- ==== Sys2Proof/Laws/Init.lean ====
section
/-! SUPPORT. `INIT` field by field (R120 to R129): the one equation the rest cites. -/

namespace Sys2Proof.Machine

/-- The parameters `INIT.SANITISE` leaves (R121). -/
def saneRvbDelay (s : State) : BitVec 8 := if s.rvbDelay = 0 then 100 else s.rvbDelay

/-- As `saneRvbDelay`, for `BASS_RANGE`. -/
def saneBassRange (s : State) : BitVec 5 := if s.bassRange = 0 then 14 else s.bassRange

/-- As `saneRvbDelay`, for `SUR_DELAY`. -/
def saneSurDelay (s : State) : BitVec 6 := if s.surDelay = 0 then 20 else s.surDelay

/-- As `saneRvbDelay`, for `BASS_DEPTH`. -/
def saneBassDepth (s : State) : BitVec 4 := BitVec.ofNat 4 (min (max s.bassDepth.toNat 2) 8)

/-- The reverb stage after `INIT` (R122). -/
def rvbAfterInit (reset : Bool) (s : State) : Reverb :=
  bif flagRvb s.flags then
    initRvbOn reset (rvbLength (saneRvbDelay s).toNat s.rate.toNat) (s.rvbDepth.toNat + 1) s.rvb
  else initRvbOff reset s.rvb

/-- The surround stage after `INIT` (R123). -/
def surAfterInit (reset : Bool) (s : State) : Surround :=
  bif flagSur s.flags then
    initSurOn reset (surLength (saneSurDelay s).toNat s.rate.toNat) (surMultOf s.surDepth.toNat) s.sur
  else initSurOff reset s.sur

/-- The bass stage after `INIT` (R124). -/
def bassAfterInit (reset : Bool) (s : State) : Bass :=
  bif flagBass s.flags then
    initBassOn reset (maskOf (bassWindow s.rate.toNat (saneBassRange s).toNat)) ((saneBassDepth s).toNat + 1) s.bass
  else initBassOff reset s.bass

/-- The noise-reduction scalars after `INIT` (R125). -/
def nrAfterInit (reset : Bool) (s : State) : Noise := if reset then clearNr else s.nr

/-- `INIT` (R120): the parameters sanitised, the four stages initialised, nothing else written. -/
theorem initialise_eq (reset : Bool) (s : State) :
    initialise reset s = { s with
      rvbDelay := saneRvbDelay s
      bassDepth := saneBassDepth s
      bassRange := saneBassRange s
      surDelay := saneSurDelay s
      rvb := rvbAfterInit reset s
      sur := surAfterInit reset s
      bass := bassAfterInit reset s
      nr := nrAfterInit reset s } := by
  have e1 : ∀ (b : Bool) (u : State), initNr b u = u.setNr (nrAfterInit b u) := by
    intro b u; cases b <;> rfl
  have e2 : ∀ (b : Bool) (u : State), initRvb b u = u.setRvb
      (bif flagRvb u.flags then
        initRvbOn b (rvbLength u.rvbDelay.toNat u.rate.toNat) (u.rvbDepth.toNat + 1) u.rvb
      else initRvbOff b u.rvb) := by
    intro b u; unfold initRvb; cases flagRvb u.flags <;> rfl
  have e3 : ∀ (b : Bool) (u : State), initSur b u = u.setSur
      (bif flagSur u.flags then
        initSurOn b (surLength u.surDelay.toNat u.rate.toNat) (surMultOf u.surDepth.toNat) u.sur
      else initSurOff b u.sur) := by
    intro b u; unfold initSur; cases flagSur u.flags <;> rfl
  have e4 : ∀ (b : Bool) (u : State), initBass b u = u.setBass
      (bif flagBass u.flags then
        initBassOn b (maskOf (bassWindow u.rate.toNat u.bassRange.toNat)) (u.bassDepth.toNat + 1) u.bass
      else initBassOff b u.bass) := by
    intro b u; unfold initBass; cases flagBass u.flags <;> rfl
  have e0 : initSanitise s = ((s.setRvbParams s.rvbDepth (saneRvbDelay s)).setBassParams (saneBassDepth s)
      (saneBassRange s)).setSurParams s.surDepth (saneSurDelay s) := rfl
  have e5 : nrAfterInit reset (initSanitise s) = nrAfterInit reset s := rfl
  unfold initialise rvbAfterInit surAfterInit bassAfterInit
  rw [e4, e3, e2, e1, e5, e0]
  simp only [State.setBass, State.setSur, State.setRvb, State.setNr, State.setSurParams, State.setBassParams,
    State.setRvbParams]

/-- The enabled branch of the reverb part, after its trigger (R122). -/
theorem initRvbOn_cases (reset : Bool) (n a : Nat) (h : Reverb) :
    ((reset = true ∨ n ≠ h.size1.toNat ∨ a ≠ h.attn.toNat) ∧
      initRvbOn reset n a h = clearRvb { h with
        attn := BitVec.ofNat 3 a
        size1 := BitVec.ofNat 17 n
        size2 := BitVec.ofNat 17 (rvbLength2 n)
        size3 := BitVec.ofNat 17 (rvbLength3 n)
        size4 := BitVec.ofNat 17 (rvbLength4 n) }) ∨
      (¬(reset = true ∨ n ≠ h.size1.toNat ∨ a ≠ h.attn.toNat) ∧ initRvbOn reset n a h = h) := by
  unfold initRvbOn
  by_cases hc : reset = true ∨ n ≠ h.size1.toNat ∨ a ≠ h.attn.toNat
  · exact .inl ⟨hc, if_pos hc⟩
  · exact .inr ⟨hc, if_neg hc⟩

/-- The enabled branch of the surround part (R123). -/
theorem initSurOn_cases (reset : Bool) (n k : Nat) (h : Surround) :
    ((reset = true ∨ n ≠ h.size.toNat) ∧
      initSurOn reset n k h = clearSur { h with mult := BitVec.ofNat 5 k, size := BitVec.ofNat 17 n }) ∨
      (¬(reset = true ∨ n ≠ h.size.toNat) ∧ initSurOn reset n k h = { h with mult := BitVec.ofNat 5 k }) := by
  unfold initSurOn
  by_cases hc : reset = true ∨ n ≠ h.size.toNat
  · exact .inl ⟨hc, if_pos hc⟩
  · exact .inr ⟨hc, if_neg hc⟩

/-- The enabled branch of the bass part (R124). -/
theorem initBassOn_cases (reset : Bool) (m k : Nat) (h : Bass) :
    ((reset = true ∨ m ≠ h.mask.toNat) ∧
      initBassOn reset m k h = clearBass { h with shift := BitVec.ofNat 4 k, mask := BitVec.ofNat 8 m }) ∨
      (¬(reset = true ∨ m ≠ h.mask.toNat) ∧ initBassOn reset m k h = { h with shift := BitVec.ofNat 4 k }) := by
  unfold initBassOn
  by_cases hc : reset = true ∨ m ≠ h.mask.toNat
  · exact .inl ⟨hc, if_pos hc⟩
  · exact .inr ⟨hc, if_neg hc⟩

theorem clearRvb_cleared (h : Reverb) : ReverbCleared (clearRvb h) :=
  ⟨lineCleared_cleared, lineCleared_cleared, lineCleared_cleared, lineCleared_cleared, filterCleared_cleared,
    lineCleared_cleared, filterCleared_cleared⟩

theorem clearSur_cleared (h : Surround) : SurroundCleared (clearSur h) :=
  ⟨lineCleared_cleared, filterCleared_cleared, filterCleared_cleared, lineCleared_cleared⟩

theorem clearBass_cleared (h : Bass) : BassCleared (clearBass h) := ⟨filterCleared_cleared, lineCleared_cleared⟩

/-- R122: the computed lengths lie within their lines' capacities. -/
theorem rvbLength_le (d r : Nat) : rvbLength d r ≤ 10000 := min_le_right _ _

theorem rvbLength2_le (n : Nat) : rvbLength2 n ≤ 7647 := min_le_right _ _

theorem rvbLength3_le (n : Nat) : rvbLength3 n ≤ 5384 := min_le_right _ _

theorem rvbLength4_le (n : Nat) : rvbLength4 n ≤ 3684 := min_le_right _ _

theorem surLength_le (d r : Nat) : surLength d r ≤ 2500 := min_le_right _ _

theorem bassWindow_le (r d : Nat) : bassWindow r d ≤ 64 := min_le_right _ _

/-- R132: the multiplier lies in 2 .. 16 for every depth. -/
theorem surMultOf_bounds (d : Nat) : 2 ≤ surMultOf d ∧ surMultOf d ≤ 16 := by
  have hc : surMultOf d = surCurve d / 4 := rfl
  rw [hc]
  unfold surCurve
  split
  · interval_cases d <;> decide
  · split
    · omega
    · decide

/-- R121: sanitising changes no legal parameter. -/
theorem sane_of_legal {s : State} (h : s.ParamsLegal) :
    saneRvbDelay s = s.rvbDelay ∧ saneBassRange s = s.bassRange ∧ saneSurDelay s = s.surDelay ∧
      saneBassDepth s = s.bassDepth := by
  have hd := h.bassDepth
  refine ⟨if_neg fun e => ?_, if_neg fun e => ?_, if_neg fun e => ?_, BitVec.eq_of_toNat_eq ?_⟩
  · simpa [e] using h.rvbDelay
  · simpa [e] using h.bassRange
  · simpa [e] using h.surDelay
  · unfold saneBassDepth
    rw [BitVec.toNat_ofNat]
    omega

/-- R130: being settled depends on `FLAGS`, `RATE`, the parameters and the active registers alone. -/
theorem State.Settled.of_same {s t : State} (h : s.Settled) (hc : SameConfiguration s t) (ha : SameActive s t) :
    t.Settled := by
  obtain ⟨cf, cr, ⟨p1, p2, p3, p4, p5, p6⟩⟩ := hc
  obtain ⟨a1, a2, a3, a4, a5, a6, a7, a8, a9⟩ := ha
  obtain ⟨⟨q1, q2, q3, q4, q5, q6⟩, h1, h2, h3, h4, h5, h6⟩ := h
  refine ⟨⟨?_, ?_, ?_, ?_, ?_, ?_⟩, ?_, ?_, ?_, ?_, ?_, ?_⟩ <;>
    simp only [cf, cr, p1, p2, p3, p4, p5, p6, a1, a2, a3, a4, a5, a6, a7, a8, a9] <;> assumption

end Sys2Proof.Machine
end

