-- ==== Sys2Proof/Laws/PerInstr.lean ====
section
/-! SUPPORT. The family proved command by command: the encoding of a well-formed command matches the row of the opcode
map that bears its mnemonic (R82, R86). -/

namespace Sys2Proof.Laws

/-- R82, R86: the word of a well-formed command matches its row of the opcode map. -/
def EncodeMatchesRow.Statement (i : Instr) : Prop :=
  i.wellFormed = true → ∃ row ∈ opcodeMap, row.mnemonic = i.mnemonic ∧ encode i &&& row.mask = row.pattern

/-- The `n`-th row of the map, once its mnemonic is the command's and the word's high part is the row's. -/
theorem encodeMatches_of_high {i : Instr} (row : OpcodeRow) (k : Nat) (hk : k ≤ 32) (hm : row ∈ opcodeMap)
    (hn : row.mnemonic = i.mnemonic) (hmask : row.mask = BitVec.ofNat 32 (2 ^ 32 - 2 ^ k))
    (hp : row.pattern.toNat / 2 ^ k * 2 ^ k = row.pattern.toNat)
    (hw : (encode i).toNat / 2 ^ k = row.pattern.toNat / 2 ^ k) :
    ∃ row ∈ opcodeMap, row.mnemonic = i.mnemonic ∧ encode i &&& row.mask = row.pattern :=
  ⟨row, hm, hn, by rw [hmask]; exact (and_highMask_eq_iff _ _ hk hp).2 hw⟩

theorem EncodeMatchesRow.init (reset : Nat) : EncodeMatchesRow.Statement (.init reset) := by
  intro h
  have h' : reset < 2 := of_decide_eq_true h
  refine encodeMatches_of_high (OpcodeRow.mk "INIT" 0x10000000 0xFFFFFFFE) 1 (by decide) (by decide) rfl rfl rfl ?_
  rw [encode_init_toNat h', show (0x10000000 : Word).toNat = 0x10000000 from rfl]
  omega

theorem EncodeMatchesRow.proc (count : Nat) : EncodeMatchesRow.Statement (.proc count) := by
  intro h
  have h' : count < 65536 := of_decide_eq_true h
  refine encodeMatches_of_high (OpcodeRow.mk "PROC" 0x20000000 0xFFFF0000) 16 (by decide) (by decide) rfl rfl rfl ?_
  rw [encode_proc_toNat h', show (0x20000000 : Word).toNat = 0x20000000 from rfl]
  omega

theorem EncodeMatchesRow.setrvb (depth delayMs : Nat) : EncodeMatchesRow.Statement (.setrvb depth delayMs) := by
  intro h
  obtain ⟨hd, hm⟩ : depth < 256 ∧ delayMs < 65536 := by simpa [Instr.wellFormed] using h
  refine encodeMatches_of_high (OpcodeRow.mk "SETRVB" 0x30000000 0xFF000000) 24 (by decide) (by decide) rfl rfl rfl ?_
  rw [encode_setrvb_toNat hd hm, show (0x30000000 : Word).toNat = 0x30000000 from rfl]
  omega

theorem EncodeMatchesRow.setbass (depth rangeHz : Nat) : EncodeMatchesRow.Statement (.setbass depth rangeHz) := by
  intro h
  obtain ⟨hd, hm⟩ : depth < 256 ∧ rangeHz < 65536 := by simpa [Instr.wellFormed] using h
  refine encodeMatches_of_high (OpcodeRow.mk "SETBASS" 0x40000000 0xFF000000) 24 (by decide) (by decide) rfl rfl rfl ?_
  rw [encode_setbass_toNat hd hm, show (0x40000000 : Word).toNat = 0x40000000 from rfl]
  omega

theorem EncodeMatchesRow.setsur (depth delayMs : Nat) : EncodeMatchesRow.Statement (.setsur depth delayMs) := by
  intro h
  obtain ⟨hd, hm⟩ : depth < 256 ∧ delayMs < 65536 := by simpa [Instr.wellFormed] using h
  refine encodeMatches_of_high (OpcodeRow.mk "SETSUR" 0x50000000 0xFF000000) 24 (by decide) (by decide) rfl rfl rfl ?_
  rw [encode_setsur_toNat hd hm, show (0x50000000 : Word).toNat = 0x50000000 from rfl]
  omega

theorem EncodeMatchesRow.setcfg (flags : Nat) : EncodeMatchesRow.Statement (.setcfg flags) := by
  intro h
  have h' : flags < 16 := of_decide_eq_true h
  refine encodeMatches_of_high (OpcodeRow.mk "SETCFG" 0x60000000 0xFFFFFFF0) 4 (by decide) (by decide) rfl rfl rfl ?_
  rw [encode_setcfg_toNat h', show (0x60000000 : Word).toNat = 0x60000000 from rfl]
  omega

theorem EncodeMatchesRow.setrate (rate : Nat) : EncodeMatchesRow.Statement (.setrate rate) := by
  intro h
  have h' : rate < 1048576 := of_decide_eq_true h
  refine encodeMatches_of_high (OpcodeRow.mk "SETRATE" 0x70000000 0xFFF00000) 20 (by decide) (by decide) rfl rfl rfl ?_
  rw [encode_setrate_toNat h', show (0x70000000 : Word).toNat = 0x70000000 from rfl]
  omega

end Sys2Proof.Laws
end

