-- ==== Sys2Proof/Laws/Stages.lean ====
section
/-! SUPPORT. What one step of each stage can do (R141, R161, R181, R201), each said once. -/

namespace Sys2Proof.Machine

theorem rvbInRange_iff (h : Reverb) : rvbInRange h = true ↔
    h.rv1.pos.toNat < 10000 ∧ h.rv2.pos.toNat < 7647 ∧ h.rv3.pos.toNat < 5384 ∧ h.rv4.pos.toNat < 3684 := by
  simp only [rvbInRange, Bool.and_eq_true, decide_eq_true_eq, and_assoc]
  rfl

theorem surInRange_iff (h : Surround) : surInRange h = true ↔ h.sur.pos.toNat < 2500 := by
  simp only [surInRange, decide_eq_true_eq]; rfl

theorem bassInRange_iff (h : Bass) : bassInRange h = true ↔ h.bxr.pos.toNat < 128 ∧ h.bxd.pos.toNat < 128 := by
  simp only [bassInRange, Bool.and_eq_true, decide_eq_true_eq, bassRingCap_eq]

/-- `RVB.STEP` in the model's own operations, its locals (R141) named. -/
theorem rvbStep_eq {dL dR l r echo echodly v1 v2 vlp : Word} {h : Reverb}
    (he : ringTap h.rv1 + ringTap h.rv2 + ringTap h.rv3 + ringTap h.rv4 = echo)
    (hd : ringTap h.rld - (sumStep 0x3F (asr echo 7) h.rlf).sum = echodly)
    (h1 : asr (dL + dR) h.attn.toNat + asr echodly 2 = v1)
    (h2 : asr (v1 + asr echodly 4) 1 = v2)
    (hp : asr (sumStep 7 v2 h.rlp).sum 2 = vlp) :
    rvbStep dL dR l r h =
      ({ h with
          rld := ringPutMask 0x1F (asr echo 1) h.rld
          rlf := sumStep 0x3F (asr echo 7) h.rlf
          rlp := sumStep 7 v2 h.rlp
          rv1 := ringPutSize h.size1.toNat vlp h.rv1
          rv2 := ringPutSize h.size2.toNat vlp h.rv2
          rv3 := ringPutSize h.size3.toNat v1 h.rv3
          rv4 := ringPutSize h.size4.toNat v1 h.rv4 }, l + dL + echodly, r + dR + echodly) := by
  subst he hd h1 h2 hp; rfl

/-- `RVB.STEP(i)` answers only where the taps are in range, and then does what R141 says. -/
theorem rvbStepAt_spec {i : Nat} {s t : State} (h : rvbStepAt i s = some t) :
    rvbInRange s.rvb = true ∧ ReverbStepped i s t := by
  unfold rvbStepAt at h
  split at h
  case isFalse => cases h
  rename_i hr
  refine ⟨hr, ?_⟩
  obtain ⟨r1, r2, r3, r4⟩ := (rvbInRange_iff _).1 hr
  unfold ReverbStepped
  simp only [wrap32_add, wrap32_sub, wrap32_toInt_self, ← asr_eq_wrap32, ← ringTap_toInt,
    ← sumStep_sum 0x3F _ s.rvb.rlf, ← sumStep_sum 7 _ s.rvb.rlp]
  generalize he : ringTap s.rvb.rv1 + ringTap s.rvb.rv2 + ringTap s.rvb.rv3 + ringTap s.rvb.rv4 = echo
  generalize hd : ringTap s.rvb.rld - (sumStep 0x3F (asr echo 7) s.rvb.rlf).sum = echodly
  generalize h1 : asr (dryWord s (2 * i) + dryWord s (2 * i + 1)) s.rvb.attn.toNat + asr echodly 2 = v1
  generalize h2 : asr (v1 + asr echodly 4) 1 = v2
  generalize hp : asr (sumStep 7 v2 s.rvb.rlp).sum 2 = vlp
  rw [rvbStep_eq he hd h1 h2 hp] at h
  simp only [Option.some.injEq] at h
  subst h
  refine ⟨fun j => mixWord_writePair _ i j _ _, ringPutMask_spec _ _ (by omega), sumStep_spec _ _ (by omega),
    sumStep_spec _ _ (by omega), ringPutSize_spec _ _ (by omega), ringPutSize_spec _ _ (by omega),
    ringPutSize_spec _ _ (by omega), ringPutSize_spec _ _ (by omega), rfl⟩

/-- `RVB.STEP(i)` answers wherever the taps are in range. -/
theorem rvbStepAt_isSome {i : Nat} {s : State} (h : rvbInRange s.rvb = true) : ∃ t, rvbStepAt i s = some t := by
  unfold rvbStepAt; rw [if_pos h]; exact ⟨_, rfl⟩

/-- `SUR.STEP(i)` answers only where the position is in range, and then does what R161 says. -/
theorem surStepAt_spec {i : Nat} {s t : State} (h : surStepAt i s = some t) :
    surInRange s.sur = true ∧ SurroundStepped i s t := by
  unfold surStepAt at h
  split at h
  case isFalse => cases h
  rename_i hr
  refine ⟨hr, ?_⟩
  have h1 := (surInRange_iff _).1 hr
  have e31 : wrap32 31 = BitVec.ofNat 32 31 := rfl
  simp only [surStep, config_dolbyRound, config_dolbyShift, config_dolbyLoShift, Option.some.injEq] at h
  unfold SurroundStepped
  simp only [wrap32_add, wrap32_sub, wrap32_mul, wrap32_natCast, wrap32_toInt_self, ← asr_eq_wrap32, ← ringTap_toInt,
    ← sumStep_sum 0x3F _ s.sur.dlf, ← sumStep_sum 0x3F _ s.sur.dhf, e31]
  subst h
  refine ⟨fun j => mixWord_writePair _ i j _ _, sumStep_spec _ _ (by omega), ringPutSize_spec _ _ (by omega),
    ringPutMask_spec _ _ (by omega), sumStep_spec _ _ (by omega), rfl⟩

theorem surStepAt_isSome {i : Nat} {s : State} (h : surInRange s.sur = true) : ∃ t, surStepAt i s = some t := by
  unfold surStepAt; rw [if_pos h]; exact ⟨_, rfl⟩

/-- R181: the value fed to the running sum. -/
theorem bassFeed_eq (l r : Word) {k : Nat} (hk : k ≤ 31) :
    bassFeed l r k = wrap32 (bassTmp (wrap32 (l.toInt + r.toInt)).toInt k) := by
  unfold bassFeed bassTmp
  rw [← add_eq_wrap32]
  dsimp only
  by_cases h : (l + r).toInt < 0
  · rw [if_pos h, if_pos h, asr_eq_wrap32]
    have hp : (2 ^ k : Nat) ≤ 2 ^ 31 := Nat.pow_le_pow_right (by omega) hk
    have h1 : 1 ≤ (2 ^ k : Nat) := Nat.one_le_two_pow
    have e : (BitVec.ofNat 32 (2 ^ k - 1)).toInt = (2 ^ k - 1 : Int) := by
      have hn : (BitVec.ofNat 32 (2 ^ k - 1)).toNat = 2 ^ k - 1 := by
        rw [BitVec.toNat_ofNat]; exact Nat.mod_eq_of_lt (by omega)
      rw [BitVec.toInt_eq_toNat_of_lt (by rw [hn]; omega), hn]
      push_cast [h1]; ring
    have hpi : (2 ^ k : Int) ≤ 2 ^ 31 := by exact_mod_cast hp
    have h1i : (1 : Int) ≤ 2 ^ k := by exact_mod_cast h1
    have lo := BitVec.le_toInt (l + r)
    congr 1
    rw [BitVec.toInt_add, e, Int.bmod_eq_of_le] <;> omega
  · rw [if_neg h, if_neg h, asr_eq_wrap32]; simp

/-- `BASS.STEP(i)` answers only where both positions are in range, and then does what R181 says. -/
theorem bassStepAt_spec {i : Nat} {s t : State} (h : bassStepAt i s = some t) :
    bassInRange s.bass = true ∧ BassStepped i s t := by
  unfold bassStepAt at h
  split at h
  case isFalse => cases h
  rename_i hr
  refine ⟨hr, ?_⟩
  obtain ⟨h1, h2⟩ := (bassInRange_iff _).1 hr
  have hs := s.bass.shift.isLt
  have hm := s.bass.mask.isLt
  have e := bassFeed_eq (mixWord s (2 * i)) (mixWord s (2 * i + 1)) (k := s.bass.shift.toNat) (by omega)
  simp only [bassStep, Option.some.injEq, e] at h
  unfold BassStepped
  have e3 : ∀ a b : Word, wrap32 (a.toInt + b.toInt) = a + b := fun a b => (add_eq_wrap32 a b).symm
  simp only [← sumStep_sum s.bass.mask.toNat _ s.bass.bxr, e3] at h ⊢
  subst h
  refine ⟨fun j => mixWord_writePair _ i j _ _, sumStep_spec _ _ (by omega), fun k => ?_, advanceByMask_spec _ (by omega),
    rfl⟩
  simp only [writePair_bass, State.setBass_bass, ringRead_ringWrite]
  by_cases hk : k = 2 * s.bass.bxd.pos.toNat + 1
  · have : ¬ k = 2 * s.bass.bxd.pos.toNat := by omega
    simp [hk]
  · simp [hk]

theorem bassStepAt_isSome {i : Nat} {s : State} (h : bassInRange s.bass = true) : ∃ t, bassStepAt i s = some t := by
  unfold bassStepAt; rw [if_pos h]; exact ⟨_, rfl⟩

/-- `NR.STEP(i)` always answers, and does what R201 says. -/
theorem nrStepAt_spec {i : Nat} {s t : State} (h : nrStepAt i s = some t) : NoiseStepped i s t := by
  simp only [nrStepAt, nrStep, Option.some.injEq] at h
  unfold NoiseStepped
  simp only [wrap32_add, wrap32_toInt_self, ← asr_eq_wrap32]
  subst h
  exact ⟨fun j => mixWord_writePair _ i j _ _, rfl, rfl, rfl⟩

theorem nrStepAt_isSome (i : Nat) (s : State) : ∃ t, nrStepAt i s = some t := ⟨_, rfl⟩

end Sys2Proof.Machine
end

