-- ==== Sys2Proof/Laws/Process.lean ====
section
/-! SUPPORT. Which form a stage step's result has, what every step keeps, and the loops of `PROC` (R230): one induction,
cited by everything that holds of a block. -/

namespace Sys2Proof.Machine

/-! The form of a step's result. -/

theorem rvbStepAt_form {i : Nat} {s t : State} (h : rvbStepAt i s = some t) :
    ∃ l r half dec v1 v2 vlp, t = writePair i l r (s.setRvb { s.rvb with
      rld := ringPutMask 0x1F half s.rvb.rld
      rlf := sumStep 0x3F dec s.rvb.rlf
      rlp := sumStep 7 v2 s.rvb.rlp
      rv1 := ringPutSize s.rvb.size1.toNat vlp s.rvb.rv1
      rv2 := ringPutSize s.rvb.size2.toNat vlp s.rvb.rv2
      rv3 := ringPutSize s.rvb.size3.toNat v1 s.rvb.rv3
      rv4 := ringPutSize s.rvb.size4.toNat v1 s.rvb.rv4 }) := by
  unfold rvbStepAt at h
  split at h
  case isFalse => cases h
  rw [rvbStep_eq rfl rfl rfl rfl rfl] at h
  simp only [Option.some.injEq] at h
  exact ⟨_, _, _, _, _, _, _, h.symm⟩

theorem surStepAt_form {i : Nat} {s t : State} (h : surStepAt i s = some t) :
    ∃ l r m1 v secho dec, t = writePair i l r (s.setSur { s.sur with
      dhf := sumStep 0x3F m1 s.sur.dhf
      sur := ringPutSize s.sur.size.toNat v s.sur.sur
      dld := ringPutMask 0x1F secho s.sur.dld
      dlf := sumStep 0x3F dec s.sur.dlf }) := by
  unfold surStepAt at h
  split at h
  case isFalse => cases h
  simp only [surStep, Option.some.injEq] at h
  exact ⟨_, _, _, _, _, _, h.symm⟩

theorem bassStepAt_form {i : Nat} {s t : State} (h : bassStepAt i s = some t) :
    ∃ l r tmp u v, t = writePair i l r (s.setBass { s.bass with
      bxr := sumStep s.bass.mask.toNat tmp s.bass.bxr
      bxd :=
        { mem := ringWrite (ringWrite s.bass.bxd.mem (2 * s.bass.bxd.pos.toNat) u) (2 * s.bass.bxd.pos.toNat + 1) v
          pos := advanceByMask s.bass.mask.toNat s.bass.bxd.pos } }) := by
  unfold bassStepAt at h
  split at h
  case isFalse => cases h
  simp only [bassStep, Option.some.injEq] at h
  exact ⟨_, _, _, _, _, h.symm⟩

theorem nrStepAt_form {i : Nat} {s t : State} (h : nrStepAt i s = some t) :
    ∃ l r, ∃ a b : Word, t = writePair i l r (s.setNr { left := asr a 1, right := asr b 1 }) := by
  simp only [nrStepAt, nrStep, Option.some.injEq] at h
  exact ⟨_, _, _, _, h.symm⟩

/-! What a step keeps: a property kept by all four step functions. -/

/-- Every stage's step keeps `P` on the pairs below `n`. -/
structure KeptByStages (n : Nat) (P : State → Prop) : Prop where
  rvb : ∀ {i s t}, i < n → rvbStepAt i s = some t → P s → P t
  sur : ∀ {i s t}, i < n → surStepAt i s = some t → P s → P t
  bass : ∀ {i s t}, i < n → bassStepAt i s = some t → P s → P t
  nr : ∀ {i s t}, i < n → nrStepAt i s = some t → P s → P t

theorem forPairs_keeps {P : State → Prop} {step : Nat → State → Option State} {n : Nat}
    (hstep : ∀ {i s t}, i < n → step i s = some t → P s → P t) {s t : State} (h : forPairs n step s = some t)
    (hs : P s) : P t := by
  induction n generalizing t with
  | zero => cases h; exact hs
  | succ n ih =>
    simp only [forPairs, Option.bind_eq_some_iff] at h
    obtain ⟨u, hu, hut⟩ := h
    exact hstep (Nat.lt_succ_self n) hut (ih (fun hi => hstep (Nat.lt_succ_of_lt hi)) hu)

theorem forPairs_isSome {P : State → Prop} {step : Nat → State → Option State} {n : Nat}
    (hstep : ∀ {i s t}, i < n → step i s = some t → P s → P t)
    (hsome : ∀ {i s}, P s → ∃ t, step i s = some t) {s : State} (hs : P s) : ∃ t, forPairs n step s = some t := by
  induction n with
  | zero => exact ⟨s, rfl⟩
  | succ n ih =>
    obtain ⟨u, hu⟩ := ih fun hi => hstep (Nat.lt_succ_of_lt hi)
    obtain ⟨t, ht⟩ := hsome (i := n) (forPairs_keeps (fun hi => hstep (Nat.lt_succ_of_lt hi)) hu hs)
    exact ⟨t, by simp [forPairs, hu, ht]⟩

theorem runStage_keeps {P : State → Prop} {step : Nat → State → Option State} {n : Nat} {b : Bool}
    (hstep : ∀ {i s t}, i < n → step i s = some t → P s → P t) {s t : State} (h : runStage b n step s = some t)
    (hs : P s) : P t := by
  unfold runStage at h
  split at h
  · exact forPairs_keeps hstep h hs
  · cases h; exact hs

theorem runStage_isSome {P : State → Prop} {step : Nat → State → Option State} {n : Nat} (b : Bool)
    (hstep : ∀ {i s t}, i < n → step i s = some t → P s → P t)
    (hsome : ∀ {i s}, P s → ∃ t, step i s = some t) {s : State} (hs : P s) : ∃ t, runStage b n step s = some t := by
  unfold runStage
  split
  · exact forPairs_isSome hstep hsome hs
  · exact ⟨s, rfl⟩

/-- The stages of a block, one after the other (R230). -/
theorem procBlock_cases {f : BitVec 4} {n : Nat} {s t : State} (h : procBlock f n s = some t) :
    ∃ s1 s2 s3, runStage (flagRvb f) n rvbStepAt s = some s1 ∧ runStage (flagSur f) n surStepAt s1 = some s2 ∧
      runStage (flagBass f) n bassStepAt s2 = some s3 ∧ runStage (flagNr f) n nrStepAt s3 = some t := by
  simp only [procBlock, Option.bind_eq_some_iff] at h
  obtain ⟨s3, ⟨s2, ⟨s1, h1, h2⟩, h3⟩, h4⟩ := h
  exact ⟨s1, s2, s3, h1, h2, h3, h4⟩

/-- What every step keeps, a block keeps. -/
theorem procBlock_keeps {P : State → Prop} {f : BitVec 4} {n : Nat} (hk : KeptByStages n P) {s t : State}
    (h : procBlock f n s = some t) (hs : P s) : P t := by
  obtain ⟨s1, s2, s3, h1, h2, h3, h4⟩ := procBlock_cases h
  exact runStage_keeps (P := P) hk.nr h4 (runStage_keeps (P := P) hk.bass h3 (runStage_keeps (P := P) hk.sur h2 (runStage_keeps (P := P) hk.rvb h1 hs)))

/-- A block answers from every state with a kept property that puts the positions in range. -/
theorem procBlock_isSome {P : State → Prop} (f : BitVec 4) {n : Nat} (hk : KeptByStages n P)
    (hr : ∀ {s}, P s → rvbInRange s.rvb = true ∧ surInRange s.sur = true ∧ bassInRange s.bass = true) {s : State}
    (hs : P s) : ∃ t, procBlock f n s = some t := by
  obtain ⟨s1, h1⟩ := runStage_isSome (P := P) (flagRvb f) (fun hi => hk.rvb hi) (fun hP => rvbStepAt_isSome (hr hP).1) hs
  have p1 := runStage_keeps (P := P) hk.rvb h1 hs
  obtain ⟨s2, h2⟩ := runStage_isSome (P := P) (flagSur f) (fun hi => hk.sur hi) (fun hP => surStepAt_isSome (hr hP).2.1) p1
  have p2 := runStage_keeps (P := P) hk.sur h2 p1
  obtain ⟨s3, h3⟩ := runStage_isSome (P := P) (flagBass f) (fun hi => hk.bass hi) (fun hP => bassStepAt_isSome (hr hP).2.2) p2
  have p3 := runStage_keeps (P := P) hk.bass h3 p2
  obtain ⟨t, h4⟩ := runStage_isSome (P := P) (flagNr f) (fun hi => hk.nr hi) (fun _ => nrStepAt_isSome _ _) p3
  exact ⟨t, by simp [procBlock, h1, h2, h3, h4]⟩

/-- The cases of `PROC` (R230, R234). -/
theorem execProc_cases (n : Nat) (s : State) :
    (512 < n ∧ execProc n s = .next (raise .capacityViolation (encode (.proc n)) s)) ∨
      (n ≤ 512 ∧ ((∃ t, procBlock s.flags n s = some t ∧ execProc n s = .next t) ∨
        (procBlock s.flags n s = none ∧ execProc n s = .fault .ringIndexBeyondCapacity))) := by
  unfold execProc
  rw [config_blockCapacity]
  by_cases h : n > 512
  · left; exact ⟨h, if_pos h⟩
  · right
    refine ⟨by omega, ?_⟩
    rw [if_neg h]
    cases hb : procBlock s.flags n s with
    | some t => left; exact ⟨t, rfl, rfl⟩
    | none => right; exact ⟨rfl, rfl⟩

/-! The properties every step keeps. -/

/-- R37: no step breaks the running-sum invariant. -/
theorem sumsHold_kept (n : Nat) : KeptByStages n State.SumsHold where
  rvb {i s t} _ h hs := by
    obtain ⟨l, r, half, dec, v1, v2, vlp, rfl⟩ := rvbStepAt_form h
    exact ⟨sumStep_holds _ _ hs.rlf (s.rvb.rlf.pos.isLt), sumStep_holds _ _ hs.rlp (s.rvb.rlp.pos.isLt), hs.dhf, hs.dlf,
      hs.bxr⟩
  sur {i s t} _ h hs := by
    obtain ⟨l, r, m1, v, secho, dec, rfl⟩ := surStepAt_form h
    exact ⟨hs.rlf, hs.rlp, sumStep_holds _ _ hs.dhf (s.sur.dhf.pos.isLt), sumStep_holds _ _ hs.dlf (s.sur.dlf.pos.isLt),
      hs.bxr⟩
  bass {i s t} _ h hs := by
    have hr := (bassInRange_iff _).1 (bassStepAt_spec h).1
    obtain ⟨l, r, tmp, u, v, rfl⟩ := bassStepAt_form h
    exact ⟨hs.rlf, hs.rlp, hs.dhf, hs.dlf, sumStep_holds _ _ hs.bxr (by rw [bassRingCap_eq]; exact hr.1)⟩
  nr {i s t} _ h hs := by
    obtain ⟨l, r, a, b, rfl⟩ := nrStepAt_form h
    exact ⟨hs.rlf, hs.rlp, hs.dhf, hs.dlf, hs.bxr⟩

/-- R38: no step leaves the bounds. -/
theorem boundsHold_kept (n : Nat) : KeptByStages n State.BoundsHold where
  rvb {i s t} _ h hs := by
    obtain ⟨l, r, half, dec, v1, v2, vlp, rfl⟩ := rvbStepAt_form h
    exact { hs with
      rv1 := advanceBySize_lt _ hs.size1 (by decide)
      rv2 := advanceBySize_lt _ hs.size2 (by decide)
      rv3 := advanceBySize_lt _ hs.size3 (by decide)
      rv4 := advanceBySize_lt _ hs.size4 (by decide)
      rlf := BitVec.isLt _
      rld := BitVec.isLt _
      rlp := BitVec.isLt _ }
  sur {i s t} _ h hs := by
    obtain ⟨l, r, m1, v, secho, dec, rfl⟩ := surStepAt_form h
    exact { hs with
      sur := advanceBySize_lt _ hs.surSize (by decide)
      dhf := BitVec.isLt _
      dlf := BitVec.isLt _
      dld := BitVec.isLt _ }
  bass {i s t} _ h hs := by
    obtain ⟨l, r, tmp, u, v, rfl⟩ := bassStepAt_form h
    have hm : s.bass.mask.toNat < bassRingCap := by obtain ⟨k, h1, h2⟩ := hs.mask; omega
    exact { hs with
      bxr := lt_of_le_of_lt (advanceByMask_le _ _) hm
      bxd := lt_of_le_of_lt (advanceByMask_le _ _) hm
      samePos := congrArg (advanceByMask s.bass.mask.toNat) hs.samePos }
  nr {i s t} _ h hs := by
    obtain ⟨l, r, a, b, rfl⟩ := nrStepAt_form h
    exact { hs with }

/-- A pair below the block capacity keeps `MIX` canonical. -/
theorem writePair_wf {i : Nat} (l r : Word) {s : State} (hi : i < 512) (h : Memory.wf bufferSize none s.mix = true) :
    Memory.wf bufferSize none (writePair i l r s).mix = true := by
  have hb := bufferSize_eq
  exact memWrite_wf r (memWrite_wf l h (by omega)) (by omega)

/-- No step breaks a memory's canonical form. -/
theorem memCanonical_kept {n : Nat} (hn : n ≤ 512) : KeptByStages n State.MemCanonical where
  rvb {i s t} hi h hs := by
    obtain ⟨h1, h2, h3, h4⟩ := (rvbInRange_iff _).1 (rvbStepAt_spec h).1
    obtain ⟨l, r, half, dec, v1, v2, vlp, rfl⟩ := rvbStepAt_form h
    exact { hs with
      rv1 := ringWrite_wf _ hs.rv1 h1
      rv2 := ringWrite_wf _ hs.rv2 h2
      rv3 := ringWrite_wf _ hs.rv3 h3
      rv4 := ringWrite_wf _ hs.rv4 h4
      rlf := ringWrite_wf _ hs.rlf (BitVec.isLt _)
      rld := ringWrite_wf _ hs.rld (BitVec.isLt _)
      rlp := ringWrite_wf _ hs.rlp (BitVec.isLt _)
      mix := writePair_wf _ _ (by omega) hs.mix }
  sur {i s t} hi h hs := by
    have h1 := (surInRange_iff _).1 (surStepAt_spec h).1
    obtain ⟨l, r, m1, v, secho, dec, rfl⟩ := surStepAt_form h
    exact { hs with
      sur := ringWrite_wf _ hs.sur h1
      dhf := ringWrite_wf _ hs.dhf (BitVec.isLt _)
      dlf := ringWrite_wf _ hs.dlf (BitVec.isLt _)
      dld := ringWrite_wf _ hs.dld (BitVec.isLt _)
      mix := writePair_wf _ _ (by omega) hs.mix }
  bass {i s t} hi h hs := by
    obtain ⟨h1, h2⟩ := (bassInRange_iff _).1 (bassStepAt_spec h).1
    obtain ⟨l, r, tmp, u, v, rfl⟩ := bassStepAt_form h
    have hc := bassRingCap_eq
    exact { hs with
      bxr := ringWrite_wf _ hs.bxr (by omega)
      bxd := ringWrite_wf _ (ringWrite_wf _ hs.bxd (by omega)) (by omega)
      mix := writePair_wf _ _ (by omega) hs.mix }
  nr {i s t} hi h hs := by
    obtain ⟨l, r, a, b, rfl⟩ := nrStepAt_form h
    exact { hs with mix := writePair_wf _ _ (by omega) hs.mix }

/-- R230, R133: no step writes an active register. -/
theorem sameActive_kept (n : Nat) (s0 : State) : KeptByStages n (SameActive s0) where
  rvb {i s t} _ h hs := by
    obtain ⟨l, r, half, dec, v1, v2, vlp, rfl⟩ := rvbStepAt_form h
    exact { hs with }
  sur {i s t} _ h hs := by
    obtain ⟨l, r, m1, v, secho, dec, rfl⟩ := surStepAt_form h
    exact { hs with }
  bass {i s t} _ h hs := by
    obtain ⟨l, r, tmp, u, v, rfl⟩ := bassStepAt_form h
    exact { hs with }
  nr {i s t} _ h hs := by
    obtain ⟨l, r, a, b, rfl⟩ := nrStepAt_form h
    exact { hs with }

/-- R230: outside the four stages' state and `MIX` no step writes anything. -/
def SameOutside (s t : State) : Prop :=
  t = { s with mix := t.mix, rvb := t.rvb, sur := t.sur, bass := t.bass, nr := t.nr }

theorem sameOutside_kept (n : Nat) (s0 : State) : KeptByStages n (SameOutside s0) where
  rvb {i s t} _ h hs := by
    obtain ⟨l, r, half, dec, v1, v2, vlp, rfl⟩ := rvbStepAt_form h
    rw [SameOutside] at hs; rw [hs]; rfl
  sur {i s t} _ h hs := by
    obtain ⟨l, r, m1, v, secho, dec, rfl⟩ := surStepAt_form h
    rw [SameOutside] at hs; rw [hs]; rfl
  bass {i s t} _ h hs := by
    obtain ⟨l, r, tmp, u, v, rfl⟩ := bassStepAt_form h
    rw [SameOutside] at hs; rw [hs]; rfl
  nr {i s t} _ h hs := by
    obtain ⟨l, r, a, b, rfl⟩ := nrStepAt_form h
    rw [SameOutside] at hs; rw [hs]; rfl

/-- R230: words of `MIX` beyond the block keep their values. -/
theorem mixBeyond_kept (n j : Nat) (w : Word) (hj : 2 * n ≤ j) : KeptByStages n (fun s => mixWord s j = w) where
  rvb {i s t} hi h hs := by
    have hp := (rvbStepAt_spec h).2.1 j
    rw [hp, if_neg (by omega), if_neg (by omega), hs]
  sur {i s t} hi h hs := by
    have hp := (surStepAt_spec h).2.1 j
    rw [hp, if_neg (by omega), if_neg (by omega), hs]
  bass {i s t} hi h hs := by
    have hp := (bassStepAt_spec h).2.1 j
    rw [hp, if_neg (by omega), if_neg (by omega), hs]
  nr {i s t} hi h hs := by
    have hp := (nrStepAt_spec h).1 j
    rw [hp, if_neg (by omega), if_neg (by omega), hs]

/-- Half of a 32-bit value lies in R201 (b)'s interval. -/
theorem asr_one_bounds (x : Word) : -1073741824 ≤ (asr x 1).toInt ∧ (asr x 1).toInt < 1073741824 := by
  rw [asr_toInt]
  have h1 := BitVec.le_toInt x
  have h2 := BitVec.toInt_lt (x := x)
  constructor <;> omega

theorem noiseHalved_kept (n : Nat) : KeptByStages n State.NoiseHalved where
  rvb {i s t} _ h hs := by
    obtain ⟨l, r, half, dec, v1, v2, vlp, rfl⟩ := rvbStepAt_form h
    exact { hs with }
  sur {i s t} _ h hs := by
    obtain ⟨l, r, m1, v, secho, dec, rfl⟩ := surStepAt_form h
    exact { hs with }
  bass {i s t} _ h hs := by
    obtain ⟨l, r, tmp, u, v, rfl⟩ := bassStepAt_form h
    exact { hs with }
  nr {i s t} _ h hs := by
    obtain ⟨l, r, a, b, rfl⟩ := nrStepAt_form h
    exact ⟨asr_one_bounds a, asr_one_bounds b⟩

end Sys2Proof.Machine
end

