-- ==== Sys2Proof/Laws/Port.lean ====
section
/-! SUPPORT. What a step can do (R63, R85, R254, R255): every case once, for later proofs to cite. -/

namespace Sys2Proof.Machine

/-- The cases of `exec`: every command but `PROC` answers one next state; `PROC` has the cases of `execProc_cases`. -/
theorem exec_cases {i : Instr} {s t : State} (h : exec i s = .next t) :
    (∃ reset, i = .init reset ∧ t = initialise (reset == 1) s) ∨
    (∃ n, i = .proc n ∧ 512 < n ∧ t = raise .capacityViolation (encode (.proc n)) s) ∨
    (∃ n, i = .proc n ∧ n ≤ 512 ∧ procBlock s.flags n s = some t) ∨
    (∃ d m, i = .setrvb d m ∧
      t = s.setRvbParams (BitVec.ofNat 3 (rvbDepthOf d)) (BitVec.ofNat 8 (rvbDelayOf m))) ∨
    (∃ d m, i = .setbass d m ∧
      t = s.setBassParams (BitVec.ofNat 4 (bassDepthOf d)) (BitVec.ofNat 5 (bassRangeOf m))) ∨
    (∃ d m, i = .setsur d m ∧
      t = s.setSurParams (BitVec.ofNat 5 (surDepthOf d)) (BitVec.ofNat 6 (surDelayOf m))) ∨
    (∃ f, i = .setcfg f ∧ t = initialise false (s.setFlags (BitVec.ofNat 4 f))) ∨
    (∃ r, i = .setrate r ∧ t = s.setRate (BitVec.ofNat 20 r)) := by
  cases i with
  | init reset => simp only [exec, execInit, Host.Outcome.next.injEq] at h; exact .inl ⟨_, rfl, h.symm⟩
  | proc n =>
    have e : exec (.proc n) s = execProc n s := rfl
    rcases execProc_cases n s with ⟨h1, h2⟩ | ⟨h1, ⟨u, h2, h3⟩ | ⟨h2, h3⟩⟩
    · rw [e, h2] at h; injection h with h; exact .inr (.inl ⟨_, rfl, h1, h.symm⟩)
    · rw [e, h3] at h; injection h with h; subst h; exact .inr (.inr (.inl ⟨_, rfl, h1, h2⟩))
    · rw [e, h3] at h; cases h
  | setrvb d m =>
    simp only [exec, execSetrvb, Host.Outcome.next.injEq] at h
    exact .inr (.inr (.inr (.inl ⟨_, _, rfl, h.symm⟩)))
  | setbass d m =>
    simp only [exec, execSetbass, Host.Outcome.next.injEq] at h
    exact .inr (.inr (.inr (.inr (.inl ⟨_, _, rfl, h.symm⟩))))
  | setsur d m =>
    simp only [exec, execSetsur, Host.Outcome.next.injEq] at h
    exact .inr (.inr (.inr (.inr (.inr (.inl ⟨_, _, rfl, h.symm⟩)))))
  | setcfg f =>
    simp only [exec, execSetcfg, Host.Outcome.next.injEq] at h
    exact .inr (.inr (.inr (.inr (.inr (.inr (.inl ⟨_, rfl, h.symm⟩))))))
  | setrate r =>
    simp only [exec, execSetrate, Host.Outcome.next.injEq] at h
    exact .inr (.inr (.inr (.inr (.inr (.inr (.inr ⟨_, rfl, h.symm⟩))))))

/-- The cases of `Command(w)` (R85, R257). -/
theorem acceptCommand_cases (w : Word) (s : State) :
    (s.fault = true ∧ acceptCommand w s = .next s) ∨
    (s.fault = false ∧ (∃ e, decode w = .error e) ∧ acceptCommand w s = .next (raise .illegalCommand w s)) ∨
    (s.fault = false ∧ ∃ i, decode w = .ok i ∧ acceptCommand w s = exec i s) := by
  unfold acceptCommand
  cases hf : s.fault
  · right
    cases hd : decode w with
    | error e => left; exact ⟨rfl, ⟨e, rfl⟩, rfl⟩
    | ok i => right; exact ⟨rfl, i, rfl, rfl⟩
  · left; exact ⟨rfl, rfl⟩

/-- The cases of a host read (R253, R255). -/
theorem hostRead_cases (space : BitVec 2) (addr : BitVec 20) (s : State) :
    (∃ v, spaceRead s space addr = some v ∧ hostRead space addr s = s.setReply (some v)) ∨
    (spaceRead s space addr = none ∧ s.fault = true ∧ hostRead space addr s = s.setReply (some 0)) ∨
    (spaceRead s space addr = none ∧ s.fault = false ∧
      hostRead space addr s = raise .badHostAccess (accessInfo space addr) (s.setReply (some 0))) := by
  unfold hostRead
  cases hr : spaceRead s space addr with
  | some v => left; exact ⟨v, rfl, rfl⟩
  | none =>
    right
    cases hf : s.fault
    · right; exact ⟨rfl, rfl, rfl⟩
    · left; exact ⟨rfl, rfl, rfl⟩

/-- An accepted host write changes one word of `MIX` or of `DRY` (R66). -/
theorem spaceWrite_cases {space : BitVec 2} {addr : BitVec 20} {v : Word} {s t : State}
    (h : spaceWrite s space addr v = some t) :
    addr.toNat < 1024 ∧ ((space = 0 ∧ t = writeMix addr.toNat v s) ∨ (space = 1 ∧ t = writeDry addr.toNat v s)) := by
  unfold spaceWrite at h
  have hb := bufferSize_eq
  split at h
  · rename_i h0
    split at h
    · rename_i ha; cases h; exact ⟨by omega, .inl ⟨h0, rfl⟩⟩
    · cases h
  · split at h
    · rename_i h1
      split at h
      · rename_i ha; cases h; exact ⟨by omega, .inr ⟨h1, rfl⟩⟩
      · cases h
    · cases h

/-- The cases of a host write (R67, R253, R255). -/
theorem hostWrite_cases (space : BitVec 2) (addr : BitVec 20) (v : Word) (s : State) :
    (s.fault = true ∧ hostWrite space addr v s = s) ∨
    (s.fault = false ∧ ∃ t, spaceWrite s space addr v = some t ∧ hostWrite space addr v s = t) ∨
    (s.fault = false ∧ spaceWrite s space addr v = none ∧
      hostWrite space addr v s = raise .badHostAccess (accessInfo space addr) s) := by
  unfold hostWrite
  cases hf : s.fault
  · right
    cases hw : spaceWrite s space addr v with
    | some t => left; exact ⟨rfl, t, rfl, rfl⟩
    | none => right; exact ⟨rfl, rfl, rfl⟩
  · left; exact ⟨rfl, rfl⟩

/-- A step: idle with nothing issued, else the first action issued, performed on the state with that action taken. -/
theorem step_cases (s : State) :
    (s.port = [] ∧ step s = .next s) ∨ (∃ a rest, s.port = a :: rest ∧ step s = perform a (taken rest s)) := by
  have e : step s = serviceNext s := rfl
  rw [e]
  unfold serviceNext
  cases hp : s.port with
  | nil => left; exact ⟨rfl, rfl⟩
  | cons a rest => right; exact ⟨a, rest, rfl, rfl⟩

theorem step_cons {s : State} {a : HostAction} {rest : List HostAction} (h : s.port = a :: rest) :
    step s = perform a (taken rest s) := by
  rcases step_cases s with ⟨h0, _⟩ | ⟨b, r, h1, h2⟩
  · rw [h0] at h; cases h
  · rw [h1] at h; cases h; exact h2

/-- Package the case analysis of a step once: what the reset, the port's bookkeeping, a fault entry, an accepted write and
every decoded command keep, every step keeps. -/
theorem step_keeps {P : State → Prop} {s t : State} (h : step s = .next t) (hs : P s)
    (hreset : ∀ u, P (hardReset u))
    (htaken : ∀ r u, P u → P (taken r u))
    (hreply : ∀ r u, P u → P (u.setReply r))
    (hraise : ∀ c x u, P u → P (raise c x u))
    (hmix : ∀ a v u, a < 1024 → P u → P (writeMix a v u))
    (hdry : ∀ a v u, a < 1024 → P u → P (writeDry a v u))
    (hexec : ∀ w i u v, decode w = .ok i → exec i u = .next v → P u → P v) : P t := by
  rcases step_cases s with ⟨_, h1⟩ | ⟨a, rest, _, h1⟩
  · rw [h1] at h; cases h; exact hs
  rw [h1] at h
  have ht := htaken rest s hs
  cases a with
  | hardReset => cases h; exact hreset _
  | command w =>
    change acceptCommand w (taken rest s) = _ at h
    rcases acceptCommand_cases w (taken rest s) with ⟨_, e⟩ | ⟨_, _, e⟩ | ⟨_, i, hd, e⟩ <;> rw [e] at h
    · cases h; exact ht
    · cases h; exact hraise _ _ _ ht
    · exact hexec w i _ _ hd h ht
  | hostRead sp ad =>
    change Host.Outcome.next (hostRead sp ad (taken rest s)) = _ at h
    injection h with h
    subst h
    rcases hostRead_cases sp ad (taken rest s) with ⟨v, _, e⟩ | ⟨_, _, e⟩ | ⟨_, _, e⟩ <;> rw [e]
    · exact hreply _ _ ht
    · exact hreply _ _ ht
    · exact hraise _ _ _ (hreply _ _ ht)
  | hostWrite sp ad v =>
    change Host.Outcome.next (hostWrite sp ad v (taken rest s)) = _ at h
    injection h with h
    subst h
    rcases hostWrite_cases sp ad v (taken rest s) with ⟨_, e⟩ | ⟨_, u, hu, e⟩ | ⟨_, _, e⟩ <;> rw [e]
    · exact ht
    · obtain ⟨hlt, ⟨_, rfl⟩ | ⟨_, rfl⟩⟩ := spaceWrite_cases hu
      · exact hmix _ _ _ hlt ht
      · exact hdry _ _ _ hlt ht
    · exact hraise _ _ _ ht

end Sys2Proof.Machine
end

