-- ==== Sys2Proof/Tests/Slice0.lean ====
section
/-! SUPPORT. The model's own tests: ill-formed commands are refused, words written out from 30_encoding.md decode, one step
of each command does what 95_test_vectors.md derives, and every statement's hypotheses are met by a concrete state. -/

namespace Sys2Proof.Tests

-- One theorem after the other: each kernel evaluation side by side would take a stack of its own.
set_option Elab.async false

open Sys2Proof.Machine

/-- The outcome is a next state with property `p`. -/
def nextIs (o : Host.Outcome State Fault Refusal) (p : State → Bool) : Bool :=
  match o with
  | .next t => p t
  | _ => false

/-- The outcome is a next state. -/
def goesOn (o : Host.Outcome State Fault Refusal) : Bool := nextIs o fun _ => true

/-- `s` with these actions issued. -/
def issue (s : State) (p : List HostAction) : State := { s with port := p }

/-! ### WellFormed: one ill-formed command for each check -/

theorem test_init_reset_too_wide : (Instr.init 2).wellFormed = false := by decide
theorem test_proc_count_too_wide : (Instr.proc 65536).wellFormed = false := by decide
theorem test_setrvb_depth_too_wide : (Instr.setrvb 256 0).wellFormed = false := by decide
theorem test_setrvb_delay_too_wide : (Instr.setrvb 0 65536).wellFormed = false := by decide
theorem test_setbass_depth_too_wide : (Instr.setbass 256 0).wellFormed = false := by decide
theorem test_setbass_range_too_wide : (Instr.setbass 0 65536).wellFormed = false := by decide
theorem test_setsur_depth_too_wide : (Instr.setsur 256 0).wellFormed = false := by decide
theorem test_setsur_delay_too_wide : (Instr.setsur 0 65536).wellFormed = false := by decide
theorem test_setcfg_flags_too_wide : (Instr.setcfg 16).wellFormed = false := by decide
theorem test_setrate_rate_too_wide : (Instr.setrate 1048576).wellFormed = false := by decide
theorem test_assembler_never_truncates : assembleInstr (.setcfg 16) = none := by decide

/-! ### Decode: words written bit by bit from the formats of R81 -/

/-- opcode 1, reserved 27:1, reset 1 -/
theorem test_decode_init : decode 0b00010000000000000000000000000001 = .ok (.init 1) := by decide +kernel
/-- opcode 2, reserved 27:16, count 513 -/
theorem test_decode_proc : decode 0b00100000000000000000001000000001 = .ok (.proc 513) := by decide +kernel
/-- opcode 3, reserved 27:24, depth 150, arg 10 -/
theorem test_decode_setrvb : decode 0b00110000100101100000000000001010 = .ok (.setrvb 150 10) := by decide +kernel
/-- opcode 4, reserved 27:24, depth 100, arg 50 -/
theorem test_decode_setbass : decode 0b01000000011001000000000000110010 = .ok (.setbass 100 50) := by decide +kernel
/-- opcode 5, reserved 27:24, depth 100, arg 4 -/
theorem test_decode_setsur : decode 0b01010000011001000000000000000100 = .ok (.setsur 100 4) := by decide +kernel
/-- opcode 6, reserved 27:4, flags 12 -/
theorem test_decode_setcfg : decode 0b01100000000000000000000000001100 = .ok (.setcfg 12) := by decide +kernel
/-- opcode 7, reserved 27:20, rate 44100 -/
theorem test_decode_setrate : decode 0b01110000000000001010110001000100 = .ok (.setrate 44100) := by decide +kernel
/-- 95_test_vectors.md 2.1: opcode 0, and a reserved bit set -/
theorem test_decode_illegal : decode 0x0FFFFFFF = .error (.unassignedOpcode 0) ∧
    decode 0x7FF00000 = .error (.reservedBitSet 7) := by decide +kernel
theorem test_decodeTableWord : decodeTableWord 32 0x3096000A = some (.setrvb 150 10) ∧ decodeTableWord 32 0 = none := by
  decide +kernel

/-! ### One step of each command, with the values of 95_test_vectors.md -/

/-- 2.5, clearing triggers: delay 40 at rate 100 gives sizes 4, 3, 2, 1; depth 1 gives attenuation 2. -/
theorem test_init_derives_reverb :
    nextIs (exec (.init 0) { State.reset with flags := 1, rate := 100, rvbDelay := 40, rvbDepth := 1 }) (fun t =>
      decide (t.rvb.size1 = 4 ∧ t.rvb.size2 = 3 ∧ t.rvb.size3 = 2 ∧ t.rvb.size4 = 1 ∧ t.rvb.attn = 2)) = true := by
  decide +kernel
/-- T3: `INIT 1` clears a noise-reduction scalar, `INIT 0` does not. -/
theorem test_init_reset_clears_noise :
    nextIs (exec (.init 1) { State.reset with nr := { left := 250, right := 250 } }) (fun t =>
      decide (t.nr.left = 0 ∧ t.nr.right = 0)) = true := by decide +kernel

/-- T8: the four-pair block through noise reduction alone. -/
theorem test_proc_noise_block :
    nextIs (exec (.proc 4) { State.reset with
      flags := 8
      mix := [(0, 1000), (1, 1000), (2, 0), (3, 0), (4, -1000), (5, -1000), (6, 500), (7, 500)] }) (fun t =>
      decide (t.mix = [(0, 500), (1, 500), (2, 500), (3, 500), (4, -500), (5, -500), (6, -250), (7, -250)] ∧
        t.nr.left = 250)) = true := by decide +kernel

/-- The bass machine of 2.5's clearing table: `SETRATE 1000; SETBASS 100, 50; SETCFG BASS`, then the pair (1000, 1000). -/
def bassMachine : State :=
  { State.reset with
    flags := 4, rate := 1000, bassDepth := 4, bassRange := 16
    bass := { Bass.reset with mask := 1, shift := 5 }
    mix := [(0, 1000), (1, 1000)] }

/-- 2.5, clearing triggers: output (62, 62), `BXR` entry 0 is 62, `BXD` entries 0 and 1 are 1000. -/
theorem test_proc_bass_pair :
    nextIs (exec (.proc 1) bassMachine) (fun t =>
      decide (t.mix = [(0, 62), (1, 62)] ∧ t.bass.bxr = { mem := [(0, 62)], pos := 1, sum := 62 } ∧
        t.bass.bxd = { mem := [(0, 1000), (1, 1000)], pos := 1 })) = true := by decide +kernel

/-- T7. -/
theorem test_setrvb_clamps : nextIs (exec (.setrvb 150 10) State.reset) (fun t =>
    decide (t.rvbDepth = 0 ∧ t.rvbDelay = 40 ∧ t.rvb.attn = 0)) = true := by decide +kernel
/-- 2.4: depth 39, delay 251. -/
theorem test_setrvb_upper_delay : nextIs (exec (.setrvb 39 251) State.reset) (fun t =>
    decide (t.rvbDepth = 3 ∧ t.rvbDelay = 250)) = true := by decide +kernel
/-- 2.4: depth 0, range 29. -/
theorem test_setbass_low_range : nextIs (exec (.setbass 0 29) State.reset) (fun t =>
    decide (t.bassDepth = 8 ∧ t.bassRange = 21)) = true := by decide +kernel
/-- 2.4: depth 80, range 45. -/
theorem test_setbass_mid_range : nextIs (exec (.setbass 80 45) State.reset) (fun t =>
    decide (t.bassDepth = 4 ∧ t.bassRange = 17)) = true := by decide +kernel
/-- 2.4: the example. -/
theorem test_setsur_example : nextIs (exec (.setsur 100 4) State.reset) (fun t =>
    decide (t.surDepth = 16 ∧ t.surDelay = 4 ∧ t.sur.mult = 0 ∧ t.sur.size = 0)) = true := by decide +kernel
/-- 2.4: depth 75, delay 51. -/
theorem test_setsur_upper_delay : nextIs (exec (.setsur 75 51) State.reset) (fun t =>
    decide (t.surDepth = 12 ∧ t.surDelay = 50)) = true := by decide +kernel
/-- 2.5: the line 44100. -/
theorem test_setcfg_all_on : nextIs (exec (.setcfg 15) State.reset) (fun t =>
    decide (t.flags = 15 ∧ t.rvb.size1 = 4410 ∧ t.rvb.size2 = 3372 ∧ t.rvb.size3 = 2374 ∧ t.rvb.size4 = 1624 ∧
      t.rvb.attn = 2 ∧ t.sur.size = 882 ∧ t.sur.mult = 9 ∧ t.bass.mask = 63 ∧ t.bass.shift = 7)) = true := by
  decide +kernel
/-- 2.5, disabled stages: the mask is forced to 0, the history kept. -/
theorem test_setcfg_keeps_disabled_history :
    nextIs (exec (.setcfg 0) { bassMachine with
      bass := { bassMachine.bass with bxr := { mem := [(0, 62)], pos := 1, sum := 62 } } }) (fun t =>
      decide (t.bass.mask = 0 ∧ t.bass.bxr.sum = 62 ∧ t.bass.bxr.pos = 1)) = true := by decide +kernel
theorem test_setrate_top : nextIs (exec (.setrate 1048575) State.reset) (fun t =>
    decide (t.rate = 1048575 ∧ t.rvb.size1 = 0)) = true := by decide +kernel

/-! ### The ports -/

/-- 2.1: `PROC 513` decodes, then faults with `STATUS = 0x5`. -/
theorem test_step_capacity_fault : nextIs (step (issue State.reset [.command 0x20000201])) (fun t =>
    decide (statusWord t = 5 ∧ t.faultInfo = 0x20000201)) = true := by decide +kernel
/-- P6: an illegal word, `STATUS = 0x3`. -/
theorem test_step_illegal_word : nextIs (step (issue State.reset [.command 0x10000002])) (fun t =>
    decide (statusWord t = 3 ∧ t.faultInfo = 0x10000002)) = true := by decide +kernel
theorem test_step_runs_fetch_word : nextIs (step (State.reset.withFetchWord 32 0x700003E8)) (fun t =>
    decide (t.rate = 1000 ∧ t.port = [])) = true := by decide +kernel
/-- 30_encoding.md R86, R87 on their text. -/
theorem test_assembler_text :
    assembleLines ["SETCFG BASS|NR".toList, " .mix 1, -1, 7 ; a pair".toList, "RESETDSP".toList] =
      some [.command 0x6000000C, .hostWrite 0 2 0xFFFFFFFF, .hostWrite 0 3 7, .command 0x10000001] := by decide +kernel
theorem test_byteImage_little_endian :
    byteImage [(1, 0x11223344)] = [(4, 0x44), (5, 0x33), (6, 0x22), (7, 0x11)] := by decide +kernel

/-! ### Witnesses: a concrete state and operands that meet the hypotheses of each statement, at the boundary values of its
clauses -/

/-- A machine in the middle of its work: bass and noise reduction on, histories not zero, a block written, actions issued. -/
def running : State :=
  { State.reset with
    flags := 12, rate := 1000, bassDepth := 4, bassRange := 16
    bass := { mask := 1, shift := 5, bxr := { mem := [(0, 62)], pos := 1, sum := 62 },
              bxd := { mem := [(0, 1000), (1, 1000)], pos := 1 } }
    nr := { left := 31, right := 31 }
    mix := [(0, 1000), (1, 1000), (2, -31), (3, -32)]
    dry := [(0, 5), (1, 6)]
    port := [.command 0x20000001, .hostRead 0 0] }

/-- A faulted machine. -/
def faulted : State := { running with fault := true, cause := 1, faultInfo := 0x10000002 }

theorem witness_sums : running.SumsHold := by constructor <;> decide +kernel

theorem witness_bounds : running.BoundsHold := by
  constructor <;> first | decide +kernel | exact ⟨1, by decide +kernel, by decide +kernel⟩

theorem witness_mem : running.MemCanonical := by constructor <;> decide +kernel

theorem witness_params : running.ParamsLegal := by constructor <;> decide +kernel

theorem witness_noise : running.NoiseHalved := by constructor <;> decide +kernel

/-- `EveryStepKeepsTheInvariant`: a state with the invariant whose step answers a next state. -/
theorem witness_EveryStepKeepsTheInvariant : running.Inv ∧ goesOn (step running) = true :=
  ⟨⟨witness_sums, witness_bounds, witness_mem, witness_params, by constructor <;> decide +kernel,
    by constructor <;> decide +kernel, by constructor <;> decide +kernel, witness_noise⟩, by decide +kernel⟩

theorem witness_RunningSumsStayExact : running.SumsHold ∧ goesOn (step running) = true :=
  ⟨witness_sums, by decide +kernel⟩
theorem witness_PositionsStayInBounds : running.BoundsHold ∧ goesOn (step running) = true :=
  ⟨witness_bounds, by decide +kernel⟩
theorem witness_MemoriesStayCanonical : running.MemCanonical ∧ goesOn (step running) = true :=
  ⟨witness_mem, by decide +kernel⟩
theorem witness_NoHostProgramStopsTheMachine : running.BoundsHold := witness_bounds

theorem witness_EncodedCommandsDecodeBack : (Instr.init 1).wellFormed = true ∧ (Instr.proc 65535).wellFormed = true ∧
    (Instr.setrvb 255 65535).wellFormed = true ∧ (Instr.setbass 255 65535).wellFormed = true ∧
    (Instr.setsur 255 65535).wellFormed = true ∧ (Instr.setcfg 15).wellFormed = true ∧
    (Instr.setrate 1048575).wellFormed = true := by decide +kernel
theorem witness_DecodedWordsEncodeBack : decode 0x700FFFFF = .ok (.setrate 1048575) := by decide +kernel
theorem witness_DecoderFollowsOpcodeMap : OpcodeRow.mk "SETRATE" 0x70000000 0xFFF00000 ∈ opcodeMap ∧
    (0x700FFFFF : Word) &&& 0xFFF00000 = 0x70000000 := by decide +kernel
theorem witness_IllegalWordsRaiseIllegalCommand :
    (issue running [.command 0x10000002]).port = [.command 0x10000002] ∧ running.fault = false ∧
      IllegalWord 0x10000002 ∧ IllegalWord 0x0FFFFFFF ∧ IllegalWord 0x80000000 ∧ IllegalWord 0x70100000 := by
  refine ⟨rfl, rfl, ?_, ?_, ?_, ?_⟩ <;> unfold IllegalWord <;> decide +kernel

/-- The last values that fit each operand of a directive, and the first that do not. -/
theorem witness_AssemblerGivesHostActions : 4294967295 < 2 ^ 32 ∧ 524287 < 2 ^ 19 ∧ SampleFits (-2147483648) ∧
    SampleFits 4294967295 ∧ ¬524288 < 2 ^ 19 ∧ ¬SampleFits (-2147483649) ∧ ¬SampleFits 4294967296 := by
  unfold SampleFits
  decide
theorem witness_StepRunsDecodedCommand :
    running.port = .command 0x20000001 :: [.hostRead 0 0] ∧ running.fault = false ∧
      decode 0x20000001 = .ok (.proc 1) := ⟨rfl, rfl, by decide +kernel⟩
theorem witness_IdleCoreHoldsState : (issue running []).port = [] := rfl

/-- The last accepted address of each space, and the first rejected one of each. -/
theorem witness_FaultedStateOnlyServesReads : faulted.fault = true ∧
    ReadAccepted 0 1023 ∧ ReadAccepted 1 1023 ∧ ReadAccepted 2 0x39 ∧ ReadAccepted 3 0xC0007 ∧
    ¬ReadAccepted 0 1024 ∧ ¬ReadAccepted 2 0x3A ∧ ¬ReadAccepted 3 0xC0008 ∧ ¬ReadAccepted 3 0xD0000 := by
  refine ⟨rfl, ?_⟩
  unfold ReadAccepted
  decide +kernel
theorem witness_OnlyHardResetLeavesTheFaultedState :
    (issue faulted [.hardReset]).port = [.hardReset] ∧ (issue faulted [.command 0]).port = [.command 0] ∧
      faulted.fault = true := ⟨rfl, rfl, rfl⟩

/-- One action of each cause, and one that raises nothing. -/
theorem witness_FaultsAreCompleteAndPrecise : running.fault = false ∧
    goesOn (step (issue running [.command 0x20000201])) = true ∧ RaisesFault (.command 0x20000201) 2 0x20000201 ∧
    goesOn (step (issue running [.command 0])) = true ∧ RaisesFault (.command 0) 1 0 ∧
    goesOn (step (issue running [.hostRead 0 1024])) = true ∧ RaisesFault (.hostRead 0 1024) 3 1024 ∧
    goesOn (step (issue running [.hostWrite 2 2 15])) = true ∧ RaisesFault (.hostWrite 2 2 15) 3 0x200002 ∧
    ¬IllegalWord 0x20000200 ∧ ¬512 < bits 0x20000200 15 0 := by
  have hp : ¬IllegalWord 0x20000201 := by unfold IllegalWord; decide +kernel
  refine ⟨rfl, by decide +kernel, .inr ⟨hp, by decide +kernel⟩, by decide +kernel, .inl ⟨?_, rfl, rfl⟩, by decide +kernel,
    ⟨?_, rfl, by decide +kernel⟩, by decide +kernel, ⟨?_, rfl, by decide +kernel⟩, ?_, by decide +kernel⟩
  · unfold IllegalWord; decide +kernel
  · unfold ReadAccepted; decide +kernel
  · unfold WriteAccepted; decide +kernel
  · unfold IllegalWord; decide +kernel
theorem witness_HardResetRestoresResetValues : (issue faulted [.hardReset]).port = [.hardReset] ∧
    faulted.port = .command 0x20000001 :: [.hostRead 0 0] ∧ faulted.fault = true ∧ goesOn (step faulted) = true :=
  ⟨rfl, rfl, rfl, by decide +kernel⟩
theorem witness_HostAccessesBufferWords : running.fault = false ∧
    (issue running [.hostWrite 0 1023 9]).port = [.hostWrite 0 1023 9] ∧ (1023 : BitVec 20).toNat < 1024 ∧
    1024 ≤ (1024 : BitVec 20).toNat ∧ (1 : BitVec 2).toNat ≤ 1 := by decide +kernel
theorem witness_HostReadsRegisters : running.fault = false ∧ (issue running [.hostRead 2 0x39]).port = [.hostRead 2 0x39] ∧
    (0 : BitVec 20).toNat ∈ csrAddresses ∧ (0x39 : BitVec 20).toNat ∈ csrAddresses ∧
    (0x0A : BitVec 20).toNat ∉ csrAddresses ∧ (0x3A : BitVec 20).toNat ∉ csrAddresses := by decide +kernel

/-- The last entry of the last ring, the first index beyond it, the first reserved id. -/
theorem witness_HostReadsRingEntries : running.fault = false ∧
    (issue running [.hostRead 3 (BitVec.ofNat 20 (12 * 65536 + 7))]).port = [.hostRead 3 (BitVec.ofNat 20 (12 * 65536 + 7))] ∧
    7 < ringCapacities.getD 12 0 ∧ ringCapacities.getD 12 0 ≤ 8 ∧ ringCapacities.getD 13 0 ≤ 0 := by decide +kernel
theorem witness_setter_operands : 255 < 256 ∧ 65535 < 65536 ∧ 1048575 < 2 ^ 20 := by decide
theorem witness_RegistersHaveOnlyTheirWriters : goesOn (exec (.proc 1) running) = true ∧
    goesOn (exec (.proc 513) running) = true ∧ goesOn (exec (.setcfg 3) running) = true ∧
    goesOn (exec (.init 0) { running with surDelay := 0 }) = true := by decide +kernel
theorem witness_BothInit : 1 < 2 ∧ 15 < 16 ∧ running.rvbDepth.toNat ≤ 4 := by decide +kernel
theorem witness_SurroundCurveFollowsItsTable : 16 ≤ 16 := le_refl 16

/-- What a host does between two `INIT`s: it writes a pair, sets the rate to what it was, processes, and reads. -/
def betweenInits : List HostAction :=
  [.hostWrite 0 0 5, .hostWrite 1 0 6, .command 0x700003E8, .command 0x20000001, .hostRead 0 0]

/-- A command word that decodes to another command than `INIT` and `SETCFG` does not reconfigure the machine. -/
theorem not_reconfigures {w : Word} {i : Instr} (h : decode w = .ok i) (hi : ¬RunsInit i) :
    ¬(HostAction.command w).reconfigures := by
  rintro ⟨k, hk, hr⟩
  rw [h] at hk
  cases hk
  exact hi hr

theorem witness_betweenInits : ∀ a ∈ betweenInits, ¬a.reconfigures := by
  have h1 : ¬(HostAction.command 0x700003E8).reconfigures :=
    not_reconfigures (i := .setrate 1000) (by decide +kernel) (by simp [RunsInit])
  have h2 : ¬(HostAction.command 0x20000001).reconfigures :=
    not_reconfigures (i := .proc 1) (by decide +kernel) (by simp [RunsInit])
  intro a ha
  simp only [betweenInits, List.mem_cons, List.not_mem_nil, or_false] at ha
  rcases ha with rfl | rfl | rfl | rfl | rfl
  · exact id
  · exact id
  · exact h1
  · exact h2
  · exact id

/-- `SETCFG 12` on the running machine, then those actions: `FLAGS`, `RATE` and the parameters are what they were, the
histories are not. -/
theorem witness_RepeatedInitChangesNothing : running.ParamsLegal ∧ RunsInit (.setcfg 12) ∧
    (∀ a ∈ betweenInits, ¬a.reconfigures) ∧ nextIs (exec (.setcfg 12) running) (fun t =>
      nextIs (Host.Core.run Sys2Proof.core betweenInits.length { t with port := betweenInits }) (fun u =>
        decide (u.flags = t.flags ∧ u.rate = t.rate ∧ u.rvbDepth = t.rvbDepth ∧ u.rvbDelay = t.rvbDelay ∧
          u.bassDepth = t.bassDepth ∧ u.bassRange = t.bassRange ∧ u.surDepth = t.surDepth ∧ u.surDelay = t.surDelay ∧
          u.bass.mask = t.bass.mask ∧ u.bass.shift = t.bass.shift ∧ u.bass ≠ t.bass))) = true :=
  ⟨witness_params, .inr ⟨12, rfl⟩, witness_betweenInits, by decide +kernel⟩

/-- The running machine is settled, and its step, a block, leaves the configuration as it is. -/
theorem witness_SettledMachineStaysSettled : running.Settled ∧ nextIs (step running) (fun t =>
    decide (t.flags = running.flags ∧ t.rate = running.rate ∧ t.rvbDepth = running.rvbDepth ∧
      t.rvbDelay = running.rvbDelay ∧ t.bassDepth = running.bassDepth ∧ t.bassRange = running.bassRange ∧
      t.surDepth = running.surDepth ∧ t.surDelay = running.surDelay)) = true := by
  refine ⟨⟨witness_params, ?_, ?_, ?_, ?_, ?_, ?_⟩, by decide +kernel⟩ <;> decide +kernel
theorem witness_InitSettlesTheMachine : running.ParamsLegal ∧ RunsInit (.setcfg 12) ∧
    goesOn (exec (.setcfg 12) running) = true ∧ running.Settled :=
  ⟨witness_params, .inr ⟨12, rfl⟩, by decide +kernel, witness_SettledMachineStaysSettled.1⟩

/-- A block of one pair of zeros in both buffers. -/
theorem witness_InitOneClearsHistoryAndZeroStaysZero :
    ∀ j, j < 2 * 1 → mixWord { running with mix := [(0, 0), (1, 0)], dry := [(0, 0), (1, 0)] } j = 0 ∧
      dryWord { running with mix := [(0, 0), (1, 0)], dry := [(0, 0), (1, 0)] } j = 0 := by
  intro j hj
  interval_cases j <;> decide +kernel
theorem witness_ProcBeyondCapacityRaises : running.fault = false ∧ decode 0x20000200 = .ok (.proc 512) ∧
    decode 0x20000201 = .ok (.proc 513) ∧ (issue running [.command 0x20000201]).port = [.command 0x20000201] ∧
    goesOn (step running) = true := by decide +kernel
theorem witness_ProcWithNothingToDoChangesNothing : State.reset.flags = 0 ∧ 512 ≤ 512 := by decide
theorem witness_ProcCompletesAndFrames : running.BoundsHold ∧ 512 ≤ 512 ∧ running.flags.getLsbD 0 = false ∧
    { running with flags := 1 }.flags.getLsbD 1 = false ∧ { running with flags := 1 }.flags.getLsbD 2 = false ∧
    { running with flags := 1 }.flags.getLsbD 3 = false := ⟨witness_bounds, by decide +kernel⟩

/-- The running machine with one stage alone enabled meets the bounds. -/
theorem witness_stage_blocks : { running with flags := 1 }.BoundsHold ∧ { running with flags := 2 }.BoundsHold ∧
    { running with flags := 4 }.BoundsHold ∧ { running with flags := 8 }.BoundsHold ∧ 511 < 512 :=
  ⟨{ witness_bounds with }, { witness_bounds with }, { witness_bounds with }, { witness_bounds with }, by decide⟩
theorem witness_StagesRunInFixedOrder : running.BoundsHold ∧ 512 ≤ 512 := ⟨witness_bounds, le_refl _⟩
theorem witness_SampleMajorOrderAgrees : Memory.wf bufferSize none running.mix = true ∧ 512 ≤ 512 := by decide +kernel

/-- Blocks of one pair and one pair; the host has moved the second pair of both buffers down. -/
theorem witness_SplitBlocksConcatenate : { running with dry := [(2, 7), (3, 8)] }.BoundsHold ∧ 1 + 1 ≤ 512 ∧
    nextIs (exec (.proc 1) { running with dry := [(2, 7), (3, 8)] }) (fun t1 =>
      let moved := { t1 with mix := [(0, -31), (1, -32)], dry := [(0, 7), (1, 8)] }
      decide (moved = { t1 with mix := moved.mix, dry := moved.dry } ∧
        mixWord moved 0 = mixWord t1 2 ∧ mixWord moved 1 = mixWord t1 3 ∧
        dryWord moved 0 = dryWord t1 2 ∧ dryWord moved 1 = dryWord t1 3)) = true :=
  ⟨{ witness_bounds with }, by decide, by decide +kernel⟩
theorem witness_NoiseReductionIsTwoTapAverage : { running with flags := 8 }.NoiseHalved ∧ 2 ≤ 512 :=
  ⟨{ witness_noise with }, by decide⟩
theorem witness_SurroundKeepsMonoSum : { running with flags := 2 }.BoundsHold ∧ 512 ≤ 512 :=
  ⟨{ witness_bounds with }, le_refl _⟩
theorem witness_BassFeedRoundsTowardZero : 31 ≤ 31 := le_refl 31
theorem witness_ProcIgnoresParametersAndRate : goesOn (exec (.proc 1) running) = true ∧
    { running with rate := 7 } = { running with rate := 7, rvbDepth := running.rvbDepth } := ⟨by decide +kernel, rfl⟩
theorem witness_DisabledReverbIgnoresDry : running.flags.getLsbD 0 = false ∧ goesOn (exec (.proc 1) running) = true := by
  decide +kernel

/-- The running machine with other words beyond a block of one pair, in both buffers. -/
def otherBeyond : State := { running with mix := [(0, 1000), (1, 1000), (2, 77)], dry := [(0, 5), (1, 6), (2, 9)] }

theorem witness_WordsBeyondTheBlockAreNotRead : 1 ≤ 512 ∧
    otherBeyond = { running with mix := otherBeyond.mix, dry := otherBeyond.dry } ∧
    (∀ j, j < 2 * 1 → mixWord otherBeyond j = mixWord running j ∧ dryWord otherBeyond j = dryWord running j) ∧
      goesOn (exec (.proc 1) running) = true := by
  refine ⟨by decide, rfl, fun j hj => ?_, by decide +kernel⟩
  interval_cases j <;> decide +kernel
theorem witness_SignalArithmeticWraps : ((0 : Word).toInt - 4294967296) % 4294967296 = 0 := by decide
theorem witness_ArithmeticShiftIsFloor : 31 ≤ 31 ∧ 1 ≤ 31 := by decide
theorem witness_MaskIsSmallestPowerAbove : 1 ≤ 64 ∧ 64 ≤ 65 := by decide
theorem witness_DelayLinesDelayByTheirLength : 65535 < 2 ^ 16 ∧ 5 ≤ 5 := by decide
theorem witness_RunningSumIsBoxcar : 6 ≤ 6 := le_refl 6
theorem witness_InitOneAfterResetAndSetcfgIsRedundant : 15 < 16 := by decide

end Sys2Proof.Tests
end

/-! PROOF. The bounds of R38 stage by stage, and that every step keeps them. -/

namespace Sys2Proof.Machine

/-- R38 for the reverb stage: the positions of its four lines and their sizes. The other positions are bounded by the
width of their registers. -/
structure Reverb.InBounds (h : Reverb) : Prop where
  rv1 : h.rv1.pos.toNat < config.maxReverb
  rv2 : h.rv2.pos.toNat < config.maxReverb2
  rv3 : h.rv3.pos.toNat < config.maxReverb3
  rv4 : h.rv4.pos.toNat < config.maxReverb4
  size1 : h.size1.toNat ≤ config.maxReverb
  size2 : h.size2.toNat ≤ config.maxReverb2
  size3 : h.size3.toNat ≤ config.maxReverb3
  size4 : h.size4.toNat ≤ config.maxReverb4

/-- R38 for the surround stage: the position of its delay line and the size. -/
structure Surround.InBounds (h : Surround) : Prop where
  sur : h.sur.pos.toNat < config.maxSurround
  size : h.size.toNat ≤ config.maxSurround

/-- R38 for the bass stage: the mask and the two positions. -/
structure Bass.InBounds (h : Bass) : Prop where
  mask : ∃ k, h.mask.toNat + 1 = 2 ^ k ∧ 2 ^ k ≤ bassRingCap
  bxr : h.bxr.pos.toNat < bassRingCap
  bxd : h.bxd.pos.toNat < bassRingCap
  samePos : h.bxr.pos = h.bxd.pos

theorem State.boundsHold_iff (s : State) :
    s.BoundsHold ↔ s.rvb.InBounds ∧ s.sur.InBounds ∧ s.bass.InBounds := by
  constructor
  · intro h
    exact ⟨{ h with }, { sur := h.sur, size := h.surSize }, { h with }⟩
  · rintro ⟨hr, hs, hb⟩
    exact { hr, hb with
      rlf := BitVec.isLt _
      rld := BitVec.isLt _
      rlp := BitVec.isLt _
      sur := hs.sur
      dhf := BitVec.isLt _
      dlf := BitVec.isLt _
      dld := BitVec.isLt _
      surSize := hs.size }

/-- The bounds put every position where the stages' steps answer (R14, R38). -/
theorem State.BoundsHold.inRange {s : State} (h : s.BoundsHold) :
    rvbInRange s.rvb = true ∧ surInRange s.sur = true ∧ bassInRange s.bass = true :=
  ⟨(rvbInRange_iff _).2 ⟨h.rv1, h.rv2, h.rv3, h.rv4⟩, (surInRange_iff _).2 h.sur,
    (bassInRange_iff _).2 (bassRingCap_eq ▸ ⟨h.bxr, h.bxd⟩)⟩

/-! The `CLEAR` operations put the positions at 0 (R126 to R128). -/

theorem zero_toNat_lt {w cap : Nat} (h : 0 < cap) : (0 : BitVec w).toNat < cap := by simpa using h

theorem clearRvb_inBounds {h : Reverb} (h1 : h.size1.toNat ≤ 10000) (h2 : h.size2.toNat ≤ 7647)
    (h3 : h.size3.toNat ≤ 5384) (h4 : h.size4.toNat ≤ 3684) : (clearRvb h).InBounds where
  rv1 := zero_toNat_lt (by decide)
  rv2 := zero_toNat_lt (by decide)
  rv3 := zero_toNat_lt (by decide)
  rv4 := zero_toNat_lt (by decide)
  size1 := h1
  size2 := h2
  size3 := h3
  size4 := h4

theorem clearSur_inBounds {h : Surround} (hn : h.size.toNat ≤ 2500) : (clearSur h).InBounds where
  sur := zero_toNat_lt (by decide)
  size := hn

theorem clearBass_inBounds {h : Bass} (hm : ∃ k, h.mask.toNat + 1 = 2 ^ k ∧ 2 ^ k ≤ bassRingCap) :
    (clearBass h).InBounds where
  mask := hm
  bxr := zero_toNat_lt (by decide)
  bxd := zero_toNat_lt (by decide)
  samePos := rfl

/-- R38: the zero mask is one less than `2 ^ 0`. -/
theorem zero_maskBound : ∃ k, (0 : BitVec 8).toNat + 1 = 2 ^ k ∧ 2 ^ k ≤ bassRingCap := ⟨0, by decide, by decide⟩

/-- R124 (d): the mask of a window within its cap is one less than a power of two at most `BASS_RING_CAP`. -/
theorem maskOf_maskBound {n : Nat} (h : n ≤ 64) :
    ∃ k, (BitVec.ofNat 8 (maskOf n)).toNat + 1 = 2 ^ k ∧ 2 ^ k ≤ bassRingCap := by
  obtain ⟨k, hk⟩ := maskOf_pow n
  have hle := maskOf_le h
  refine ⟨k, ?_, by rw [bassRingCap_eq]; omega⟩
  rw [BitVec.toNat_ofNat]
  omega

/-! The stages after `INIT` (R122 to R124). -/

theorem toNat_ofNat_le {w n cap : Nat} (h : n ≤ cap) : (BitVec.ofNat w n).toNat ≤ cap := by
  rw [BitVec.toNat_ofNat]
  exact le_trans (Nat.mod_le _ _) h

theorem initRvbOn_inBounds (reset : Bool) (a : Nat) {n : Nat} {h : Reverb} (hn : n ≤ 10000) (hb : h.InBounds) :
    (initRvbOn reset n a h).InBounds := by
  rcases initRvbOn_cases reset n a h with ⟨_, e⟩ | ⟨_, e⟩ <;> rw [e]
  · exact clearRvb_inBounds (toNat_ofNat_le hn) (toNat_ofNat_le (rvbLength2_le n)) (toNat_ofNat_le (rvbLength3_le n))
      (toNat_ofNat_le (rvbLength4_le n))
  · exact hb

theorem initRvbOff_inBounds (reset : Bool) {h : Reverb} (hb : h.InBounds) : (initRvbOff reset h).InBounds := by
  cases reset with
  | true => exact clearRvb_inBounds (Nat.zero_le _) (Nat.zero_le _) (Nat.zero_le _) (Nat.zero_le _)
  | false => exact { hb with
      size1 := Nat.zero_le _
      size2 := Nat.zero_le _
      size3 := Nat.zero_le _
      size4 := Nat.zero_le _ }

theorem rvbAfterInit_inBounds (reset : Bool) {s : State} (hb : s.rvb.InBounds) : (rvbAfterInit reset s).InBounds := by
  unfold rvbAfterInit
  cases flagRvb s.flags with
  | true => exact initRvbOn_inBounds reset _ (rvbLength_le _ _) hb
  | false => exact initRvbOff_inBounds reset hb

theorem initSurOn_inBounds (reset : Bool) (k : Nat) {n : Nat} {h : Surround} (hn : n ≤ 2500) (hb : h.InBounds) :
    (initSurOn reset n k h).InBounds := by
  rcases initSurOn_cases reset n k h with ⟨_, e⟩ | ⟨_, e⟩ <;> rw [e]
  · exact clearSur_inBounds (toNat_ofNat_le hn)
  · exact { hb with }

theorem initSurOff_inBounds (reset : Bool) {h : Surround} (hb : h.InBounds) : (initSurOff reset h).InBounds := by
  cases reset with
  | true => exact clearSur_inBounds (Nat.zero_le _)
  | false => exact { hb with size := Nat.zero_le _ }

theorem surAfterInit_inBounds (reset : Bool) {s : State} (hb : s.sur.InBounds) : (surAfterInit reset s).InBounds := by
  unfold surAfterInit
  cases flagSur s.flags with
  | true => exact initSurOn_inBounds reset _ (surLength_le _ _) hb
  | false => exact initSurOff_inBounds reset hb

theorem initBassOn_inBounds (reset : Bool) (k : Nat) {n : Nat} {h : Bass} (hn : n ≤ 64) (hb : h.InBounds) :
    (initBassOn reset (maskOf n) k h).InBounds := by
  rcases initBassOn_cases reset (maskOf n) k h with ⟨_, e⟩ | ⟨_, e⟩ <;> rw [e]
  · exact clearBass_inBounds (maskOf_maskBound hn)
  · exact { hb with }

theorem initBassOff_inBounds (reset : Bool) {h : Bass} (hb : h.InBounds) : (initBassOff reset h).InBounds := by
  cases reset with
  | true => exact clearBass_inBounds zero_maskBound
  | false => exact { hb with mask := zero_maskBound }

theorem bassAfterInit_inBounds (reset : Bool) {s : State} (hb : s.bass.InBounds) :
    (bassAfterInit reset s).InBounds := by
  unfold bassAfterInit
  cases flagBass s.flags with
  | true => exact initBassOn_inBounds reset _ (bassWindow_le _ _) hb
  | false => exact initBassOff_inBounds reset hb

/-- `INIT` keeps the bounds (R38, R120). -/
theorem initialise_boundsHold (reset : Bool) {s : State} (h : s.BoundsHold) : (initialise reset s).BoundsHold := by
  obtain ⟨hr, hs, hb⟩ := s.boundsHold_iff.1 h
  rw [initialise_eq, State.boundsHold_iff]
  exact ⟨rvbAfterInit_inBounds reset hr, surAfterInit_inBounds reset hs, bassAfterInit_inBounds reset hb⟩

/-! Every step keeps the bounds. -/

theorem reset_boundsHold : State.reset.BoundsHold :=
  State.reset.boundsHold_iff.2 ⟨by constructor <;> decide, by constructor <;> decide,
    { mask := zero_maskBound, bxr := by decide, bxd := by decide, samePos := rfl }⟩

theorem hardReset_boundsHold (s : State) : (hardReset s).BoundsHold := { reset_boundsHold with }

/-- Every command that answers a next state keeps the bounds. -/
theorem exec_keeps_boundsHold {i : Instr} {s t : State} (h : exec i s = .next t) (hs : s.BoundsHold) :
    t.BoundsHold := by
  rcases exec_cases h with ⟨_, _, rfl⟩ | ⟨_, _, _, rfl⟩ | ⟨n, _, _, hp⟩ | ⟨_, _, _, rfl⟩ | ⟨_, _, _, rfl⟩ |
    ⟨_, _, _, rfl⟩ | ⟨_, _, rfl⟩ | ⟨_, _, rfl⟩
  · exact initialise_boundsHold _ hs
  · exact { hs with }
  · exact procBlock_keeps (boundsHold_kept n) hp hs
  · exact { hs with }
  · exact { hs with }
  · exact { hs with }
  · exact initialise_boundsHold false { hs with }
  · exact { hs with }

/-- R38: every step keeps the bounds. -/
theorem step_keeps_boundsHold {s t : State} (h : step s = .next t) (hs : s.BoundsHold) : t.BoundsHold :=
  step_keeps h hs hardReset_boundsHold (fun _ _ hu => { hu with }) (fun _ _ hu => { hu with })
    (fun _ _ _ hu => { hu with }) (fun _ _ _ _ hu => { hu with }) (fun _ _ _ _ hu => { hu with })
    fun _ _ _ _ _ he hu => exec_keeps_boundsHold he hu

end Sys2Proof.Machine

/-! PROOF. Within the bounds every host action completes (R17, R250), and so does every program of the host. -/

namespace Sys2Proof.Machine

/-- Within the bounds every command completes; `PROC` is the only one that needs them (R38, R230). -/
theorem exec_completes (i : Instr) {s : State} (hs : s.BoundsHold) : ∃ t, exec i s = .next t := by
  cases i with
  | proc n =>
    rcases execProc_cases n s with ⟨_, e⟩ | ⟨_, ⟨t, _, e⟩ | ⟨hnone, _⟩⟩
    · exact ⟨_, e⟩
    · exact ⟨t, e⟩
    · obtain ⟨t, ht⟩ := procBlock_isSome s.flags (boundsHold_kept n) State.BoundsHold.inRange hs
      rw [ht] at hnone
      cases hnone
  | init _ | setrvb _ _ | setbass _ _ | setsur _ _ | setcfg _ | setrate _ => exact ⟨_, rfl⟩

/-- Within the bounds the core completes whatever the host puts on the command port (R85, R257). -/
theorem acceptCommand_completes (w : Word) {s : State} (hs : s.BoundsHold) : ∃ t, acceptCommand w s = .next t := by
  rcases acceptCommand_cases w s with ⟨_, e⟩ | ⟨_, _, e⟩ | ⟨_, i, _, e⟩
  · exact ⟨_, e⟩
  · exact ⟨_, e⟩
  · rw [e]
    exact exec_completes i hs

/-- Within the bounds every host action completes (R17). -/
theorem perform_completes (a : HostAction) {s : State} (hs : s.BoundsHold) : ∃ t, perform a s = .next t := by
  cases a with
  | command w => exact acceptCommand_completes w hs
  | hardReset | hostWrite _ _ _ | hostRead _ _ => exact ⟨_, rfl⟩

/-- Progress: within the bounds the machine steps, idle or with the next action the host has issued. -/
theorem steps_of_boundsHold {s : State} (hs : s.BoundsHold) : s.Steps := by
  rcases step_cases s with ⟨_, e⟩ | ⟨a, rest, _, e⟩
  · exact ⟨s, e⟩
  · obtain ⟨t, ht⟩ := perform_completes a (s := taken rest s) { hs with }
    exact ⟨t, e.trans ht⟩

theorem run_succ_of_next (M : Host.Core) (n : Nat) {s u : M.State} (h : M.step s = .next u) :
    M.run (n + 1) s = M.run n u := by
  rw [Host.Core.run, h]

/-- Progress and preservation together: no run from within the bounds stops. -/
theorem run_completes (n : Nat) {s : State} (hs : s.BoundsHold) :
    ∃ t, Host.Core.run Sys2Proof.core n s = .next t := by
  induction n generalizing s with
  | zero => exact ⟨s, rfl⟩
  | succ n ih =>
    obtain ⟨u, hu⟩ := steps_of_boundsHold hs
    obtain ⟨t, ht⟩ := ih (step_keeps_boundsHold hu hs)
    exact ⟨t, (run_succ_of_next Sys2Proof.core n hu).trans ht⟩

/-- Settles O58: progress within the bounds of R38, which hold at reset whatever is issued and which every step keeps. -/
theorem noHostProgramStopsTheMachine : Obligations.NoHostProgramStopsTheMachine :=
  ⟨fun _ => steps_of_boundsHold, fun _ n => run_completes n { reset_boundsHold with }⟩

end Sys2Proof.Machine

/-! PROOF. Signal arithmetic (R10, R11): `wrap32` picks the word of a residue class, `asr` is floor division. -/

namespace Sys2Proof.Machine

/-- R10: two integers wrap to one word exactly when they are congruent modulo 2^32. -/
theorem wrap32_eq_iff (x y : Int) : wrap32 x = wrap32 y ↔ (x - y) % 4294967296 = 0 := by
  rw [← BitVec.toInt_inj, wrap32_toInt, wrap32_toInt, Int.bmod_eq_bmod_iff_bmod_sub_eq_zero,
    ← Int.dvd_iff_bmod_eq_zero]
  exact ⟨Int.emod_eq_zero_of_dvd, Int.dvd_of_emod_eq_zero⟩

/-- R10: the value of `wrap32` is congruent to its argument. -/
theorem wrap32_congr (x : Int) : ((wrap32 x).toInt - x) % 4294967296 = 0 :=
  (wrap32_eq_iff _ _).1 (wrap32_toInt_self _)

/-- R10: `wrap32` is the only word congruent to its argument. -/
theorem eq_wrap32_of_congr {x : Int} {y : Word} (h : (y.toInt - x) % 4294967296 = 0) : y = wrap32 x := by
  rw [← (wrap32_eq_iff _ _).2 h, wrap32_toInt_self]

/-- Settles O48: congruence modulo 2^32 decides which word an integer wraps to, and the word operations follow it. -/
theorem signalArithmeticWraps : Obligations.SignalArithmeticWraps := by
  refine ⟨fun x => ⟨BitVec.le_toInt _, BitVec.toInt_lt, wrap32_congr x⟩, fun _ _ => eq_wrap32_of_congr,
    fun x y => ⟨?_, ?_⟩, fun a b => ⟨add_eq_wrap32 a b, sub_eq_wrap32 a b, mul_eq_wrap32 a b⟩⟩
  · rw [wrap32_add, wrap32_toInt_self, ← wrap32_add]
  · rw [wrap32_mul, wrap32_toInt_self, ← wrap32_mul]

/-- R11: the floor of `-1 / 2^n` is -1 for every `n`. -/
theorem asr_neg_one (n : Nat) : asr (-1) n = -1 := by
  apply BitVec.eq_of_toInt_eq
  rw [asr_toInt]
  exact Int.ediv_eq_neg_one_of_neg_of_le (by decide) (one_le_pow₀ (by decide))

/-- Settles O49: the general law is `asr_toInt`, the rule's examples are evaluated. -/
theorem arithmeticShiftIsFloor : Obligations.ArithmeticShiftIsFloor :=
  ⟨fun x n _ => asr_toInt x n, fun n _ _ => asr_neg_one n, by decide, by decide⟩

end Sys2Proof.Machine

/-! PROOF. A property that every part of an action keeps is kept by every step (R63, R85); what `INIT` and `PROC`
leave. -/

namespace Sys2Proof.Machine

/-- Every part of a host action keeps `P`: the port's bookkeeping, a fault entry, an accepted write, and the next state
of each command. The hard reset establishes it. -/
structure KeptByActions (P : State → Prop) : Prop where
  reset : ∀ u, P (hardReset u)
  taken : ∀ {rest u}, P u → P (taken rest u)
  reply : ∀ {r u}, P u → P (u.setReply r)
  raise : ∀ {c x u}, P u → P (raise c x u)
  mix : ∀ {a v u}, a < 1024 → P u → P (writeMix a v u)
  dry : ∀ {a v u}, a < 1024 → P u → P (writeDry a v u)
  init : ∀ {b u}, P u → P (initialise b u)
  proc : ∀ {f n u v}, n ≤ 512 → procBlock f n u = some v → P u → P v
  setrvb : ∀ {d m u}, P u → P (u.setRvbParams (BitVec.ofNat 3 (rvbDepthOf d)) (BitVec.ofNat 8 (rvbDelayOf m)))
  setbass : ∀ {d m u}, P u → P (u.setBassParams (BitVec.ofNat 4 (bassDepthOf d)) (BitVec.ofNat 5 (bassRangeOf m)))
  setsur : ∀ {d m u}, P u → P (u.setSurParams (BitVec.ofNat 5 (surDepthOf d)) (BitVec.ofNat 6 (surDelayOf m)))
  setcfg : ∀ {f u}, P u → P (initialise false (u.setFlags f))
  setrate : ∀ {r u}, P u → P (u.setRate r)

/-- Every command that answers a next state keeps what the parts keep. -/
theorem KeptByActions.exec {P : State → Prop} (hk : KeptByActions P) {i : Instr} {s t : State}
    (h : exec i s = .next t) (hs : P s) : P t := by
  rcases exec_cases h with ⟨_, _, rfl⟩ | ⟨_, _, _, rfl⟩ | ⟨_, _, hn, hp⟩ | ⟨_, _, _, rfl⟩ | ⟨_, _, _, rfl⟩ |
    ⟨_, _, _, rfl⟩ | ⟨_, _, rfl⟩ | ⟨_, _, rfl⟩
  · exact hk.init hs
  · exact hk.raise hs
  · exact hk.proc hn hp hs
  · exact hk.setrvb hs
  · exact hk.setbass hs
  · exact hk.setsur hs
  · exact hk.setcfg hs
  · exact hk.setrate hs

/-- Every step keeps what the parts keep. -/
theorem KeptByActions.step {P : State → Prop} (hk : KeptByActions P) {s t : State} (h : step s = .next t)
    (hs : P s) : P t :=
  step_keeps h hs hk.reset (fun _ _ => hk.taken) (fun _ _ => hk.reply) (fun _ _ _ => hk.raise)
    (fun _ _ _ => hk.mix) (fun _ _ _ => hk.dry) fun _ _ _ _ _ he => hk.exec he

/-- R230: a block writes nothing outside `MIX` and the four stages. -/
theorem procBlock_sameOutside {f : BitVec 4} {n : Nat} {s t : State} (h : procBlock f n s = some t) :
    SameOutside s t := procBlock_keeps (sameOutside_kept n s) h rfl

theorem SameOutside.flags {s t : State} (h : SameOutside s t) : t.flags = s.flags := by rw [h]

theorem SameOutside.sameParams {s t : State} (h : SameOutside s t) : SameParams s t := by
  rw [h]
  exact ⟨rfl, rfl, rfl, rfl, rfl, rfl⟩

theorem SameActive.refl (s : State) : SameActive s s := ⟨rfl, rfl, rfl, rfl, rfl, rfl, rfl, rfl, rfl⟩

/-- R133: a block writes no active register. -/
theorem procBlock_sameActive {f : BitVec 4} {n : Nat} {s t : State} (h : procBlock f n s = some t) :
    SameActive s t := procBlock_keeps (sameActive_kept n s) h (SameActive.refl s)

/-! `INIT` keeps each ring as it is or clears it, position and sum included (R122 to R124, R126 to R128). -/

/-- The ring `r'` is `r`, or cleared. -/
def Ring.KeptOrCleared {w : Nat} (r r' : Ring w) : Prop := r' = r ∨ r' = Ring.cleared

/-- The running-sum filter `f'` is `f`, or cleared. -/
def SumRing.KeptOrCleared {w : Nat} (f f' : SumRing w) : Prop := f' = f ∨ f' = SumRing.cleared

theorem Ring.KeptOrCleared.wf {w cap : Nat} {r r' : Ring w} (h : r.KeptOrCleared r')
    (hr : Memory.wf cap (some 0) r.mem = true) : Memory.wf cap (some 0) r'.mem = true := by
  rcases h with rfl | rfl
  · exact hr
  · rfl

theorem SumRing.KeptOrCleared.wf {w cap : Nat} {f f' : SumRing w} (h : f.KeptOrCleared f')
    (hf : Memory.wf cap (some 0) f.mem = true) : Memory.wf cap (some 0) f'.mem = true := by
  rcases h with rfl | rfl
  · exact hf
  · rfl

theorem SumRing.KeptOrCleared.holds {w cap : Nat} {f f' : SumRing w} (h : f.KeptOrCleared f')
    (hf : f.holds cap) : f'.holds cap := by
  rcases h with rfl | rfl
  · exact hf
  · exact cleared_holds cap

/-- Each ring of the reverb stage is kept or cleared. -/
structure Reverb.KeptOrCleared (h h' : Reverb) : Prop where
  rv1 : h.rv1.KeptOrCleared h'.rv1
  rv2 : h.rv2.KeptOrCleared h'.rv2
  rv3 : h.rv3.KeptOrCleared h'.rv3
  rv4 : h.rv4.KeptOrCleared h'.rv4
  rlf : h.rlf.KeptOrCleared h'.rlf
  rld : h.rld.KeptOrCleared h'.rld
  rlp : h.rlp.KeptOrCleared h'.rlp

/-- Each ring of the surround stage is kept or cleared. -/
structure Surround.KeptOrCleared (h h' : Surround) : Prop where
  sur : h.sur.KeptOrCleared h'.sur
  dhf : h.dhf.KeptOrCleared h'.dhf
  dlf : h.dlf.KeptOrCleared h'.dlf
  dld : h.dld.KeptOrCleared h'.dld

/-- Each ring of the bass stage is kept or cleared. -/
structure Bass.KeptOrCleared (h h' : Bass) : Prop where
  bxr : h.bxr.KeptOrCleared h'.bxr
  bxd : h.bxd.KeptOrCleared h'.bxd

theorem Reverb.keptOrCleared_refl (h : Reverb) : h.KeptOrCleared h :=
  ⟨.inl rfl, .inl rfl, .inl rfl, .inl rfl, .inl rfl, .inl rfl, .inl rfl⟩

theorem Reverb.keptOrCleared_clearRvb (h : Reverb) : h.KeptOrCleared (clearRvb h) :=
  ⟨.inr rfl, .inr rfl, .inr rfl, .inr rfl, .inr rfl, .inr rfl, .inr rfl⟩

theorem Surround.keptOrCleared_refl (h : Surround) : h.KeptOrCleared h := ⟨.inl rfl, .inl rfl, .inl rfl, .inl rfl⟩

theorem Surround.keptOrCleared_clearSur (h : Surround) : h.KeptOrCleared (clearSur h) :=
  ⟨.inr rfl, .inr rfl, .inr rfl, .inr rfl⟩

theorem Bass.keptOrCleared_refl (h : Bass) : h.KeptOrCleared h := ⟨.inl rfl, .inl rfl⟩

theorem Bass.keptOrCleared_clearBass (h : Bass) : h.KeptOrCleared (clearBass h) := ⟨.inr rfl, .inr rfl⟩

theorem rvbAfterInit_keptOrCleared (reset : Bool) (s : State) : s.rvb.KeptOrCleared (rvbAfterInit reset s) := by
  unfold rvbAfterInit
  cases flagRvb s.flags with
  | true =>
    dsimp only [cond_true]
    rcases initRvbOn_cases reset (rvbLength (saneRvbDelay s).toNat s.rate.toNat) (s.rvbDepth.toNat + 1) s.rvb with
      ⟨_, e⟩ | ⟨_, e⟩ <;> rw [e]
    · exact { s.rvb.keptOrCleared_clearRvb with }
    · exact s.rvb.keptOrCleared_refl
  | false =>
    cases reset with
    | true => exact { s.rvb.keptOrCleared_clearRvb with }
    | false => exact { s.rvb.keptOrCleared_refl with }

theorem surAfterInit_keptOrCleared (reset : Bool) (s : State) : s.sur.KeptOrCleared (surAfterInit reset s) := by
  unfold surAfterInit
  cases flagSur s.flags with
  | true =>
    dsimp only [cond_true]
    rcases initSurOn_cases reset (surLength (saneSurDelay s).toNat s.rate.toNat) (surMultOf s.surDepth.toNat) s.sur with
      ⟨_, e⟩ | ⟨_, e⟩ <;> rw [e]
    · exact { s.sur.keptOrCleared_clearSur with }
    · exact { s.sur.keptOrCleared_refl with }
  | false =>
    cases reset with
    | true => exact { s.sur.keptOrCleared_clearSur with }
    | false => exact { s.sur.keptOrCleared_refl with }

theorem bassAfterInit_keptOrCleared (reset : Bool) (s : State) : s.bass.KeptOrCleared (bassAfterInit reset s) := by
  unfold bassAfterInit
  cases flagBass s.flags with
  | true =>
    dsimp only [cond_true]
    rcases initBassOn_cases reset (maskOf (bassWindow s.rate.toNat (saneBassRange s).toNat))
      ((saneBassDepth s).toNat + 1) s.bass with ⟨_, e⟩ | ⟨_, e⟩ <;> rw [e]
    · exact { s.bass.keptOrCleared_clearBass with }
    · exact { s.bass.keptOrCleared_refl with }
  | false =>
    cases reset with
    | true => exact { s.bass.keptOrCleared_clearBass with }
    | false => exact { s.bass.keptOrCleared_refl with }

/-! The active registers `INIT` leaves (R122 to R124, R132, R134). -/

theorem toNat_ofNat_of_lt {w n : Nat} (h : n < 2 ^ w) : (BitVec.ofNat w n).toNat = n := by
  rw [BitVec.toNat_ofNat, Nat.mod_eq_of_lt h]

theorem rvbAfterInit_attn_of_on (reset : Bool) {s : State} (hf : flagRvb s.flags = true)
    (hd : s.rvbDepth.toNat ≤ 4) : (rvbAfterInit reset s).attn.toNat = s.rvbDepth.toNat + 1 := by
  unfold rvbAfterInit
  rw [hf, cond_true]
  rcases initRvbOn_cases reset (rvbLength (saneRvbDelay s).toNat s.rate.toNat) (s.rvbDepth.toNat + 1) s.rvb with
    ⟨_, e⟩ | ⟨hc, e⟩ <;> rw [e]
  · exact toNat_ofNat_of_lt (by omega)
  · by_contra hne
    exact hc (.inr (.inr (Ne.symm hne)))

theorem rvbAfterInit_of_off (reset : Bool) {s : State} (hf : flagRvb s.flags = false) :
    (rvbAfterInit reset s).attn = s.rvb.attn ∧ (rvbAfterInit reset s).size1 = 0 ∧
      (rvbAfterInit reset s).size2 = 0 ∧ (rvbAfterInit reset s).size3 = 0 ∧ (rvbAfterInit reset s).size4 = 0 := by
  unfold rvbAfterInit
  rw [hf, cond_false]
  cases reset <;> exact ⟨rfl, rfl, rfl, rfl, rfl⟩

theorem surAfterInit_mult_of_on (reset : Bool) {s : State} (hf : flagSur s.flags = true) :
    (surAfterInit reset s).mult.toNat = surMultOf s.surDepth.toNat := by
  have hm := (surMultOf_bounds s.surDepth.toNat).2
  unfold surAfterInit
  rw [hf, cond_true]
  rcases initSurOn_cases reset (surLength (saneSurDelay s).toNat s.rate.toNat) (surMultOf s.surDepth.toNat) s.sur with
    ⟨_, e⟩ | ⟨_, e⟩ <;> rw [e] <;> exact toNat_ofNat_of_lt (by omega)

theorem surAfterInit_of_off (reset : Bool) {s : State} (hf : flagSur s.flags = false) :
    (surAfterInit reset s).mult = s.sur.mult ∧ (surAfterInit reset s).size = 0 := by
  unfold surAfterInit
  rw [hf, cond_false]
  cases reset <;> exact ⟨rfl, rfl⟩

/-- R121: the sanitised bass depth is the depth clamped to 2 .. 8. -/
theorem saneBassDepth_toNat (s : State) : (saneBassDepth s).toNat = min (max s.bassDepth.toNat 2) 8 :=
  toNat_ofNat_of_lt (by omega)

theorem bassAfterInit_shift_of_on (reset : Bool) {s : State} (hf : flagBass s.flags = true) :
    (bassAfterInit reset s).shift.toNat = (saneBassDepth s).toNat + 1 := by
  have hd := saneBassDepth_toNat s
  unfold bassAfterInit
  rw [hf, cond_true]
  rcases initBassOn_cases reset (maskOf (bassWindow s.rate.toNat (saneBassRange s).toNat))
    ((saneBassDepth s).toNat + 1) s.bass with ⟨_, e⟩ | ⟨_, e⟩ <;> rw [e] <;> exact toNat_ofNat_of_lt (by omega)

theorem bassAfterInit_shift_bounds_of_on (reset : Bool) {s : State} (hf : flagBass s.flags = true) :
    3 ≤ (bassAfterInit reset s).shift.toNat ∧ (bassAfterInit reset s).shift.toNat ≤ 9 := by
  rw [bassAfterInit_shift_of_on reset hf, saneBassDepth_toNat]
  omega

theorem bassAfterInit_of_off (reset : Bool) {s : State} (hf : flagBass s.flags = false) :
    (bassAfterInit reset s).shift = s.bass.shift ∧ (bassAfterInit reset s).mask = 0 := by
  unfold bassAfterInit
  rw [hf, cond_false]
  cases reset <;> exact ⟨rfl, rfl⟩

end Sys2Proof.Machine

/-! PROOF. Every step keeps the parts of the machine's invariant, one by one (R29 to R32, R37, R38, R201, R216,
R254). -/

namespace Sys2Proof.Machine

/-! The running sums (R37). -/

theorem reset_sumsHold : State.reset.SumsHold :=
  ⟨cleared_holds 64, cleared_holds 8, cleared_holds 64, cleared_holds 64, cleared_holds bassRingCap⟩

theorem initialise_sumsHold (reset : Bool) {s : State} (hs : s.SumsHold) : (initialise reset s).SumsHold := by
  have hr := rvbAfterInit_keptOrCleared reset s
  have hu := surAfterInit_keptOrCleared reset s
  rw [initialise_eq]
  exact ⟨hr.rlf.holds hs.rlf, hr.rlp.holds hs.rlp, hu.dhf.holds hs.dhf, hu.dlf.holds hs.dlf,
    (bassAfterInit_keptOrCleared reset s).bxr.holds hs.bxr⟩

theorem keptByActions_sumsHold : KeptByActions State.SumsHold where
  reset _ := { reset_sumsHold with }
  taken hu := { hu with }
  reply hu := { hu with }
  raise hu := { hu with }
  mix _ hu := { hu with }
  dry _ hu := { hu with }
  init hu := initialise_sumsHold _ hu
  proc _ h hu := procBlock_keeps (sumsHold_kept _) h hu
  setrvb hu := { hu with }
  setbass hu := { hu with }
  setsur hu := { hu with }
  setcfg hu := initialise_sumsHold false { hu with }
  setrate hu := { hu with }

/-- Settles O55: a ring is cleared with its sum or written through `RSUM.STEP`, which keeps the sum (`sumStep_holds`). -/
theorem runningSumsStayExact : Obligations.RunningSumsStayExact :=
  ⟨keptByActions_sumsHold.reset, fun _ _ hs h => keptByActions_sumsHold.step h hs⟩

/-- Settles O56: the bounds hold at reset and `step_keeps_boundsHold` carries them on. -/
theorem positionsStayInBounds : Obligations.PositionsStayInBounds :=
  ⟨hardReset_boundsHold, fun _ _ hs h => step_keeps_boundsHold h hs⟩

/-! The canonical form of the memories (logs 1 and 2). -/

theorem reset_memCanonical : State.reset.MemCanonical := by constructor <;> rfl

theorem initialise_memCanonical (reset : Bool) {s : State} (hs : s.MemCanonical) :
    (initialise reset s).MemCanonical := by
  have hr := rvbAfterInit_keptOrCleared reset s
  have hu := surAfterInit_keptOrCleared reset s
  have hb := bassAfterInit_keptOrCleared reset s
  rw [initialise_eq]
  exact { hs with
    bxr := hb.bxr.wf hs.bxr
    bxd := hb.bxd.wf hs.bxd
    dlf := hu.dlf.wf hs.dlf
    dhf := hu.dhf.wf hs.dhf
    dld := hu.dld.wf hs.dld
    sur := hu.sur.wf hs.sur
    rv1 := hr.rv1.wf hs.rv1
    rv2 := hr.rv2.wf hs.rv2
    rv3 := hr.rv3.wf hs.rv3
    rv4 := hr.rv4.wf hs.rv4
    rlf := hr.rlf.wf hs.rlf
    rld := hr.rld.wf hs.rld
    rlp := hr.rlp.wf hs.rlp }

theorem keptByActions_memCanonical : KeptByActions State.MemCanonical where
  reset _ := { reset_memCanonical with }
  taken hu := { hu with }
  reply hu := { hu with }
  raise hu := { hu with }
  mix ha hu := { hu with mix := memWrite_wf _ hu.mix ha }
  dry ha hu := { hu with dry := memWrite_wf _ hu.dry ha }
  init hu := initialise_memCanonical _ hu
  proc hn h hu := procBlock_keeps (memCanonical_kept hn) h hu
  setrvb hu := { hu with }
  setbass hu := { hu with }
  setsur hu := { hu with }
  setcfg hu := initialise_memCanonical false { hu with }
  setrate hu := { hu with }

/-- Settles O57: every write of a memory goes through `memWrite` below the memory's size (`memWrite_wf`). -/
theorem memoriesStayCanonical : Obligations.MemoriesStayCanonical :=
  fun _ _ hs h => keptByActions_memCanonical.step h hs

/-! The configuration: parameters (R29), active registers (R30 to R32) and their readiness (R216) together, since `INIT`
makes the second and the third from the first. -/

/-- The parameters and active registers are legal and the enabled stages ready. -/
structure State.Configured (s : State) : Prop where
  params : s.ParamsLegal
  active : s.ActiveLegal
  ready : s.StagesReady

theorem reset_paramsLegal : State.reset.ParamsLegal := by constructor <;> decide

theorem reset_configured : State.reset.Configured where
  params := reset_paramsLegal
  active := by constructor <;> decide
  ready := by constructor <;> decide

/-- R211: the values `SETRVB` stores are legal. -/
theorem setrvb_paramsLegal (d m : Nat) {s : State} (hs : s.ParamsLegal) :
    (s.setRvbParams (BitVec.ofNat 3 (rvbDepthOf d)) (BitVec.ofNat 8 (rvbDelayOf m))).ParamsLegal where
  __ := hs
  rvbDepth := toNat_ofNat_le (Nat.sub_le _ _)
  rvbDelay := by
    have hm : 40 ≤ rvbDelayOf m ∧ rvbDelayOf m ≤ 250 := by unfold rvbDelayOf clamp; omega
    rw [State.setRvbParams_rvbDelay, toNat_ofNat_of_lt (by omega)]
    exact hm

/-- R212, R213: the values `SETBASS` stores are legal. -/
theorem setbass_paramsLegal (d m : Nat) {s : State} (hs : s.ParamsLegal) :
    (s.setBassParams (BitVec.ofNat 4 (bassDepthOf d)) (BitVec.ofNat 5 (bassRangeOf m))).ParamsLegal where
  __ := hs
  bassDepth := by
    have hd : 2 ≤ bassDepthOf d ∧ bassDepthOf d ≤ 8 := by unfold bassDepthOf gainOf; omega
    rw [State.setBassParams_bassDepth, toNat_ofNat_of_lt (by omega)]
    exact hd
  bassRange := by
    have hm : 16 ≤ bassRangeOf m ∧ bassRangeOf m ≤ 21 := by
      have e : bassRangeOf m = bassRange m := rfl
      rw [e, bassRange]
      omega
    rw [State.setBassParams_bassRange, toNat_ofNat_of_lt (by omega)]
    exact .inr hm

/-- R214: the values `SETSUR` stores are legal. -/
theorem setsur_paramsLegal (d m : Nat) {s : State} (hs : s.ParamsLegal) :
    (s.setSurParams (BitVec.ofNat 5 (surDepthOf d)) (BitVec.ofNat 6 (surDelayOf m))).ParamsLegal where
  __ := hs
  surDepth := by
    have hd : 1 ≤ surDepthOf d ∧ surDepthOf d ≤ 16 := by unfold surDepthOf clamp; omega
    rw [State.setSurParams_surDepth, toNat_ofNat_of_lt (by omega)]
    exact hd
  surDelay := by
    have hm : 4 ≤ surDelayOf m ∧ surDelayOf m ≤ 50 := by unfold surDelayOf clamp; omega
    rw [State.setSurParams_surDelay, toNat_ofNat_of_lt (by omega)]
    exact hm

theorem initialise_paramsLegal (reset : Bool) {s : State} (hs : s.ParamsLegal) :
    (initialise reset s).ParamsLegal := by
  obtain ⟨e1, e2, e3, e4⟩ := sane_of_legal hs
  rw [initialise_eq, e1, e2, e3, e4]
  exact { hs with }

/-- R30 to R32: `INIT` leaves legal active registers; a disabled stage keeps its attenuation, multiplier and shift. -/
theorem initialise_activeLegal (reset : Bool) {s : State} (hp : s.ParamsLegal) (ha : s.ActiveLegal) :
    (initialise reset s).ActiveLegal := by
  have hattn : (rvbAfterInit reset s).attn.toNat ≤ 5 := by
    cases hf : flagRvb s.flags with
    | true => exact (rvbAfterInit_attn_of_on reset hf hp.rvbDepth).trans_le (Nat.succ_le_succ hp.rvbDepth)
    | false => exact (rvbAfterInit_of_off reset hf).1 ▸ ha.attn
  have hmult : (surAfterInit reset s).mult.toNat ≤ 16 := by
    cases hf : flagSur s.flags with
    | true => exact (surAfterInit_mult_of_on reset hf).trans_le (surMultOf_bounds _).2
    | false => exact (surAfterInit_of_off reset hf).1 ▸ ha.mult
  have hshift : (bassAfterInit reset s).shift = 0 ∨
      3 ≤ (bassAfterInit reset s).shift.toNat ∧ (bassAfterInit reset s).shift.toNat ≤ 9 := by
    cases hf : flagBass s.flags with
    | true => exact .inr (bassAfterInit_shift_bounds_of_on reset hf)
    | false => exact (bassAfterInit_of_off reset hf).1 ▸ ha.shift
  rw [initialise_eq]
  exact ⟨hattn, hmult, hshift⟩

/-- R216: from legal parameters `INIT` makes every stage ready, whatever `FLAGS` holds. -/
theorem initialise_stagesReady (reset : Bool) {s : State} (hp : s.ParamsLegal) :
    (initialise reset s).StagesReady := by
  rw [initialise_eq]
  exact
    { rvbOn hf := (Nat.le_add_left 1 _).trans_eq (rvbAfterInit_attn_of_on (s := s) reset hf hp.rvbDepth).symm
      surOn hf := (surMultOf_bounds _).1.trans_eq (surAfterInit_mult_of_on (s := s) reset hf).symm
      bassOn hf := (bassAfterInit_shift_bounds_of_on (s := s) reset hf).1
      rvbOff hf := (rvbAfterInit_of_off (s := s) reset hf).2
      surOff hf := (surAfterInit_of_off (s := s) reset hf).2
      bassOff hf := (bassAfterInit_of_off (s := s) reset hf).2 }

theorem initialise_configured (reset : Bool) {s : State} (hp : s.ParamsLegal) (ha : s.ActiveLegal) :
    (initialise reset s).Configured :=
  ⟨initialise_paramsLegal reset hp, initialise_activeLegal reset hp ha, initialise_stagesReady reset hp⟩

/-- Being configured depends on `FLAGS`, the parameters and the active registers alone. -/
theorem State.Configured.of_same {s t : State} (h : s.Configured) (hf : t.flags = s.flags) (hp : SameParams s t)
    (ha : SameActive s t) : t.Configured := by
  obtain ⟨p1, p2, p3, p4, p5, p6⟩ := hp
  obtain ⟨a1, a2, a3, a4, a5, a6, a7, a8, a9⟩ := ha
  obtain ⟨⟨q1, q2, q3, q4, q5, q6⟩, ⟨r1, r2, r3⟩, ⟨h1, h2, h3, h4, h5, h6⟩⟩ := h
  refine ⟨⟨?_, ?_, ?_, ?_, ?_, ?_⟩, ⟨?_, ?_, ?_⟩, ⟨?_, ?_, ?_, ?_, ?_, ?_⟩⟩ <;>
    simp only [hf, p1, p2, p3, p4, p5, p6, a1, a2, a3, a4, a5, a6, a7, a8, a9] <;> assumption

/-- R230, R133: a block writes no parameter and no active register. -/
theorem procBlock_configured {f : BitVec 4} {n : Nat} {s t : State} (h : procBlock f n s = some t)
    (hs : s.Configured) : t.Configured := by
  have ho := procBlock_sameOutside h
  exact hs.of_same ho.flags ho.sameParams (procBlock_sameActive h)

theorem keptByActions_configured : KeptByActions State.Configured where
  reset _ := ⟨{ reset_configured.params with }, { reset_configured.active with }, { reset_configured.ready with }⟩
  taken hu := ⟨{ hu.params with }, { hu.active with }, { hu.ready with }⟩
  reply hu := ⟨{ hu.params with }, { hu.active with }, { hu.ready with }⟩
  raise hu := ⟨{ hu.params with }, { hu.active with }, { hu.ready with }⟩
  mix _ hu := ⟨{ hu.params with }, { hu.active with }, { hu.ready with }⟩
  dry _ hu := ⟨{ hu.params with }, { hu.active with }, { hu.ready with }⟩
  init hu := initialise_configured _ hu.params hu.active
  proc _ h hu := procBlock_configured h hu
  setrvb hu := ⟨setrvb_paramsLegal _ _ hu.params, { hu.active with }, { hu.ready with }⟩
  setbass hu := ⟨setbass_paramsLegal _ _ hu.params, { hu.active with }, { hu.ready with }⟩
  setsur hu := ⟨setsur_paramsLegal _ _ hu.params, { hu.active with }, { hu.ready with }⟩
  setcfg hu := initialise_configured false { hu.params with } { hu.active with }
  setrate hu := ⟨{ hu.params with }, { hu.active with }, { hu.ready with }⟩

/-! `STATUS` and `FAULT_INFO` (R25, R26, R254). -/

theorem reset_statusLegal : State.reset.StatusLegal := by constructor <;> decide

/-- R250: every cause has a code other than 0. -/
theorem cause_code_ne_zero (c : Cause) : c.code ≠ 0 := by cases c <;> decide

theorem raise_statusLegal (c : Cause) (x : Word) (s : State) : (raise c x s).StatusLegal where
  clear h := Bool.noConfusion h
  latched _ := cause_code_ne_zero c

theorem initialise_statusLegal (reset : Bool) {s : State} (hs : s.StatusLegal) :
    (initialise reset s).StatusLegal := by
  rw [initialise_eq]
  exact { hs with }

theorem keptByActions_statusLegal : KeptByActions State.StatusLegal where
  reset _ := { reset_statusLegal with }
  taken hu := { hu with }
  reply hu := { hu with }
  raise _ := raise_statusLegal _ _ _
  mix _ hu := { hu with }
  dry _ hu := { hu with }
  init hu := initialise_statusLegal _ hu
  proc _ h hu := by
    rw [procBlock_sameOutside h]
    exact { hu with }
  setrvb hu := { hu with }
  setbass hu := { hu with }
  setsur hu := { hu with }
  setcfg hu := initialise_statusLegal false { hu with }
  setrate hu := { hu with }

/-! The noise-reduction scalars (R201 (b)). -/

theorem reset_noiseHalved : State.reset.NoiseHalved := by constructor <;> decide

theorem initialise_noiseHalved (reset : Bool) {s : State} (hs : s.NoiseHalved) :
    (initialise reset s).NoiseHalved := by
  rw [initialise_eq]
  cases reset with
  | true => exact { reset_noiseHalved with }
  | false => exact { hs with }

theorem keptByActions_noiseHalved : KeptByActions State.NoiseHalved where
  reset _ := { reset_noiseHalved with }
  taken hu := { hu with }
  reply hu := { hu with }
  raise hu := { hu with }
  mix _ hu := { hu with }
  dry _ hu := { hu with }
  init hu := initialise_noiseHalved _ hu
  proc _ h hu := procBlock_keeps (noiseHalved_kept _) h hu
  setrvb hu := { hu with }
  setbass hu := { hu with }
  setsur hu := { hu with }
  setcfg hu := initialise_noiseHalved false { hu with }
  setrate hu := { hu with }

/-! The invariant of the machine. -/

theorem reset_inv : State.reset.Inv :=
  { reset_configured with
    sums := reset_sumsHold
    bounds := reset_boundsHold
    mem := reset_memCanonical
    status := reset_statusLegal
    noise := reset_noiseHalved }

/-- With `FLAGS` 0 being settled asks for the forced zeros alone (R122 to R124). -/
theorem reset_settled : State.reset.Settled where
  params := reset_paramsLegal
  rvbOn h := absurd h (by decide)
  surOn h := absurd h (by decide)
  bassOn h := absurd h (by decide)
  rvbOff _ := ⟨rfl, rfl, rfl, rfl⟩
  surOff _ := rfl
  bassOff _ := rfl

/-- Settles O53: with every ring empty and every register at its reset value the parts are evaluated. -/
theorem resetMeetsTheInvariant : Obligations.ResetMeetsTheInvariant := ⟨reset_inv, reset_settled⟩

/-- Settles O54: each part of the invariant is kept on its own, the configuration's three parts together. -/
theorem everyStepKeepsTheInvariant : Obligations.EveryStepKeepsTheInvariant := fun _ _ hs h =>
  { keptByActions_configured.step h ⟨hs.params, hs.active, hs.ready⟩ with
    sums := keptByActions_sumsHold.step h hs.sums
    bounds := step_keeps_boundsHold h hs.bounds
    mem := keptByActions_memCanonical.step h hs.mem
    status := keptByActions_statusLegal.step h hs.status
    noise := keptByActions_noiseHalved.step h hs.noise }

end Sys2Proof.Machine

/-! PROOF. What each command writes, register by register (R25 to R33, R133). -/

namespace Sys2Proof.Machine

/-! A disabled stage's state is as it was after a block, and no stage writes another's (R231). -/

theorem runStage_disabled {n : Nat} {step : Nat → State → Option State} {s t : State} {b : Bool} (hb : b = false)
    (h : runStage b n step s = some t) : t = s := by
  subst hb
  cases h
  rfl

theorem runStage_rvb_frame {b : Bool} {n : Nat} {s t : State} (h : runStage b n rvbStepAt s = some t) :
    t.sur = s.sur ∧ t.bass = s.bass ∧ t.nr = s.nr := by
  refine runStage_keeps (P := fun u => u.sur = s.sur ∧ u.bass = s.bass ∧ u.nr = s.nr) ?_ h ⟨rfl, rfl, rfl⟩
  intro _ _ _ _ hstep hs
  obtain ⟨_, _, _, _, _, _, _, rfl⟩ := rvbStepAt_form hstep
  exact hs

theorem runStage_sur_frame {b : Bool} {n : Nat} {s t : State} (h : runStage b n surStepAt s = some t) :
    t.rvb = s.rvb ∧ t.bass = s.bass ∧ t.nr = s.nr := by
  refine runStage_keeps (P := fun u => u.rvb = s.rvb ∧ u.bass = s.bass ∧ u.nr = s.nr) ?_ h ⟨rfl, rfl, rfl⟩
  intro _ _ _ _ hstep hs
  obtain ⟨_, _, _, _, _, _, rfl⟩ := surStepAt_form hstep
  exact hs

theorem runStage_bass_frame {b : Bool} {n : Nat} {s t : State} (h : runStage b n bassStepAt s = some t) :
    t.rvb = s.rvb ∧ t.sur = s.sur ∧ t.nr = s.nr := by
  refine runStage_keeps (P := fun u => u.rvb = s.rvb ∧ u.sur = s.sur ∧ u.nr = s.nr) ?_ h ⟨rfl, rfl, rfl⟩
  intro _ _ _ _ hstep hs
  obtain ⟨_, _, _, _, _, rfl⟩ := bassStepAt_form hstep
  exact hs

theorem runStage_nr_frame {b : Bool} {n : Nat} {s t : State} (h : runStage b n nrStepAt s = some t) :
    t.rvb = s.rvb ∧ t.sur = s.sur ∧ t.bass = s.bass := by
  refine runStage_keeps (P := fun u => u.rvb = s.rvb ∧ u.sur = s.sur ∧ u.bass = s.bass) ?_ h ⟨rfl, rfl, rfl⟩
  intro _ _ _ _ hstep hs
  obtain ⟨_, _, _, _, rfl⟩ := nrStepAt_form hstep
  exact hs

/-- R231: a block changes a stage's state only where the stage is enabled. -/
theorem procBlock_stage_frame {f : BitVec 4} {n : Nat} {s t : State} (h : procBlock f n s = some t) :
    (t.rvb = s.rvb ∨ flagRvb f = true) ∧ (t.sur = s.sur ∨ flagSur f = true) ∧
      (t.bass = s.bass ∨ flagBass f = true) ∧ (t.nr = s.nr ∨ flagNr f = true) := by
  obtain ⟨s1, s2, s3, h1, h2, h3, h4⟩ := procBlock_cases h
  obtain ⟨sur1, bass1, nr1⟩ := runStage_rvb_frame h1
  obtain ⟨rvb2, bass2, nr2⟩ := runStage_sur_frame h2
  obtain ⟨rvb3, sur3, nr3⟩ := runStage_bass_frame h3
  obtain ⟨rvb4, sur4, bass4⟩ := runStage_nr_frame h4
  refine ⟨?_, ?_, ?_, ?_⟩
  · refine (flagRvb f).eq_false_or_eq_true.symm.imp_left fun off => ?_
    rw [rvb4, rvb3, rvb2, runStage_disabled off h1]
  · refine (flagSur f).eq_false_or_eq_true.symm.imp_left fun off => ?_
    rw [sur4, sur3, runStage_disabled off h2, sur1]
  · refine (flagBass f).eq_false_or_eq_true.symm.imp_left fun off => ?_
    rw [bass4, runStage_disabled off h3, bass2, bass1]
  · refine (flagNr f).eq_false_or_eq_true.symm.imp_left fun off => ?_
    rw [runStage_disabled off h4, nr3, nr2, nr1]

/-- The clauses of `Obligations.RegistersHaveOnlyTheirWriters` for one command, by name. -/
structure OnlyByWriters (i : Instr) (s t : State) : Prop where
  status : (t.fault = s.fault ∧ t.cause = s.cause ∧ t.faultInfo = s.faultInfo) ∨ ∃ n, i = .proc n ∧ 512 < n
  flags : t.flags = s.flags ∨ ∃ f, i = .setcfg f
  rate : t.rate = s.rate ∨ ∃ r, i = .setrate r
  rvbDepth : t.rvbDepth = s.rvbDepth ∨ ∃ d m, i = .setrvb d m
  rvbDelay : t.rvbDelay = s.rvbDelay ∨ (∃ d m, i = .setrvb d m) ∨ RunsInit i ∧ s.rvbDelay = 0 ∧ t.rvbDelay = 100
  bassDepth : t.bassDepth = s.bassDepth ∨ (∃ d m, i = .setbass d m) ∨
    RunsInit i ∧ t.bassDepth.toNat = min (max s.bassDepth.toNat 2) 8
  bassRange : t.bassRange = s.bassRange ∨ (∃ d m, i = .setbass d m) ∨
    RunsInit i ∧ s.bassRange = 0 ∧ t.bassRange = 14
  surDepth : t.surDepth = s.surDepth ∨ ∃ d m, i = .setsur d m
  surDelay : t.surDelay = s.surDelay ∨ (∃ d m, i = .setsur d m) ∨ RunsInit i ∧ s.surDelay = 0 ∧ t.surDelay = 20
  active : SameActive s t ∨ RunsInit i
  rvb : t.rvb = s.rvb ∨ RunsInit i ∨ ∃ n, i = .proc n ∧ s.flags.getLsbD 0 = true
  sur : t.sur = s.sur ∨ RunsInit i ∨ ∃ n, i = .proc n ∧ s.flags.getLsbD 1 = true
  bass : t.bass = s.bass ∨ RunsInit i ∨ ∃ n, i = .proc n ∧ s.flags.getLsbD 2 = true
  nr : t.nr = s.nr ∨ i = .init 1 ∨ ∃ n, i = .proc n ∧ s.flags.getLsbD 3 = true
  mix : t.mix = s.mix ∨ ∃ n, i = .proc n
  dry : t.dry = s.dry
  dryWord : ∀ j, dryWord t j = dryWord s j

theorem OnlyByWriters.refl (i : Instr) (s : State) : OnlyByWriters i s s :=
  ⟨.inl ⟨rfl, rfl, rfl⟩, .inl rfl, .inl rfl, .inl rfl, .inl rfl, .inl rfl, .inl rfl, .inl rfl, .inl rfl,
    .inl (SameActive.refl s), .inl rfl, .inl rfl, .inl rfl, .inl rfl, .inl rfl, rfl, fun _ => rfl⟩

/-- R120, R121: the initializer, run by the command `i` with the flags `f`, writes what `i` may write. -/
theorem initialise_onlyByWriters {i : Instr} {reset : Bool} {f : BitVec 4} {s : State} (hi : RunsInit i)
    (hreset : reset = true → i = .init 1) (hf : f = s.flags ∨ ∃ g, i = .setcfg g) :
    OnlyByWriters i s (initialise reset (s.setFlags f)) := by
  rw [initialise_eq]
  exact { OnlyByWriters.refl i s with
    flags := hf
    rvbDelay := by
      by_cases h0 : s.rvbDelay = 0
      · exact .inr (.inr ⟨hi, h0, if_pos h0⟩)
      · exact .inl (if_neg h0)
    bassDepth := .inr (.inr ⟨hi, saneBassDepth_toNat (s.setFlags f)⟩)
    bassRange := by
      by_cases h0 : s.bassRange = 0
      · exact .inr (.inr ⟨hi, h0, if_pos h0⟩)
      · exact .inl (if_neg h0)
    surDelay := by
      by_cases h0 : s.surDelay = 0
      · exact .inr (.inr ⟨hi, h0, if_pos h0⟩)
      · exact .inl (if_neg h0)
    active := .inr hi
    rvb := .inr (.inl hi)
    sur := .inr (.inl hi)
    bass := .inr (.inl hi)
    nr := by
      cases reset with
      | true => exact .inr (.inl (hreset rfl))
      | false => exact .inl rfl }

/-- R230, R231: a block writes `MIX` and the enabled stages' rings, positions, sums and scalars. -/
theorem procBlock_onlyByWriters {n : Nat} {s t : State} (h : procBlock s.flags n s = some t) :
    OnlyByWriters (.proc n) s t := by
  have hactive := procBlock_sameActive h
  obtain ⟨hrvb, hsur, hbass, hnr⟩ := procBlock_stage_frame h
  rw [procBlock_sameOutside h]
  exact { OnlyByWriters.refl (.proc n) s with
    active := .inl { hactive with }
    rvb := hrvb.imp_right fun on => .inr ⟨n, rfl, on⟩
    sur := hsur.imp_right fun on => .inr ⟨n, rfl, on⟩
    bass := hbass.imp_right fun on => .inr ⟨n, rfl, on⟩
    nr := hnr.imp_right fun on => .inr ⟨n, rfl, on⟩
    mix := .inr ⟨n, rfl⟩ }

/-- Every command writes what it may write. -/
theorem exec_onlyByWriters {i : Instr} {s t : State} (h : exec i s = .next t) : OnlyByWriters i s t := by
  rcases exec_cases h with ⟨reset, rfl, rfl⟩ | ⟨n, rfl, hn, rfl⟩ | ⟨n, rfl, _, hp⟩ | ⟨d, m, rfl, rfl⟩ |
    ⟨d, m, rfl, rfl⟩ | ⟨d, m, rfl, rfl⟩ | ⟨f, rfl, rfl⟩ | ⟨r, rfl, rfl⟩
  · exact initialise_onlyByWriters (f := s.flags) (.inl ⟨reset, rfl⟩) (fun e => congrArg Instr.init (eq_of_beq e))
      (.inl rfl)
  · exact { OnlyByWriters.refl _ s with
      active := .inl { SameActive.refl s with }
      status := .inr ⟨n, rfl, hn⟩ }
  · exact procBlock_onlyByWriters hp
  · exact { OnlyByWriters.refl _ s with
      active := .inl { SameActive.refl s with }
      rvbDepth := .inr ⟨d, m, rfl⟩
      rvbDelay := .inr (.inl ⟨d, m, rfl⟩) }
  · exact { OnlyByWriters.refl _ s with
      active := .inl { SameActive.refl s with }
      bassDepth := .inr (.inl ⟨d, m, rfl⟩)
      bassRange := .inr (.inl ⟨d, m, rfl⟩) }
  · exact { OnlyByWriters.refl _ s with
      active := .inl { SameActive.refl s with }
      surDepth := .inr ⟨d, m, rfl⟩
      surDelay := .inr (.inl ⟨d, m, rfl⟩) }
  · exact initialise_onlyByWriters (.inr ⟨f, rfl⟩) Bool.noConfusion (.inr ⟨f, rfl⟩)
  · exact { OnlyByWriters.refl _ s with
      active := .inl { SameActive.refl s with }
      rate := .inr ⟨r, rfl⟩ }

/-- Settles O21, command by command. -/
theorem registersHaveOnlyTheirWriters : Obligations.RegistersHaveOnlyTheirWriters := fun _ _ _ h =>
  have w := exec_onlyByWriters h
  ⟨w.status, w.flags, w.rate, w.rvbDepth, w.rvbDelay, w.bassDepth, w.bassRange, w.surDepth, w.surDelay, w.active,
    w.rvb, w.sur, w.bass, w.nr, w.mix, w.dry, w.dryWord⟩

end Sys2Proof.Machine

/-! PROOF. What `PROC` reads of the buffers (R78): two states that agree on the words of a block go through its stages
side by side. -/

namespace Sys2Proof.Machine

/-! Simulation: a relation between two states that all four step functions carry on. -/

/-- Every stage's step on a pair below `n` that answers from the first of two related states answers from the second, and
relates the results. -/
structure SimulatedByStages (n : Nat) (R : State → State → Prop) : Prop where
  rvb : ∀ {i s s' t}, i < n → R s s' → rvbStepAt i s = some t → ∃ t', rvbStepAt i s' = some t' ∧ R t t'
  sur : ∀ {i s s' t}, i < n → R s s' → surStepAt i s = some t → ∃ t', surStepAt i s' = some t' ∧ R t t'
  bass : ∀ {i s s' t}, i < n → R s s' → bassStepAt i s = some t → ∃ t', bassStepAt i s' = some t' ∧ R t t'
  nr : ∀ {i s s' t}, i < n → R s s' → nrStepAt i s = some t → ∃ t', nrStepAt i s' = some t' ∧ R t t'

section
variable {R : State → State → Prop} {n : Nat} {s s' t : State} {step : Nat → State → Option State}

theorem forPairs_simulated
    (hstep : ∀ {i s s' t}, i < n → R s s' → step i s = some t → ∃ t', step i s' = some t' ∧ R t t')
    (h : forPairs n step s = some t) (hR : R s s') : ∃ t', forPairs n step s' = some t' ∧ R t t' := by
  induction n generalizing t with
  | zero =>
    cases h
    exact ⟨s', rfl, hR⟩
  | succ n ih =>
    obtain ⟨u, hu, hut⟩ := Option.bind_eq_some_iff.1 h
    obtain ⟨u', hu', hRu⟩ := ih (fun hi => hstep (Nat.lt_succ_of_lt hi)) hu
    obtain ⟨t', ht', hRt⟩ := hstep (Nat.lt_succ_self n) hRu hut
    exact ⟨t', Option.bind_eq_some_iff.2 ⟨u', hu', ht'⟩, hRt⟩

theorem runStage_simulated {b : Bool}
    (hstep : ∀ {i s s' t}, i < n → R s s' → step i s = some t → ∃ t', step i s' = some t' ∧ R t t')
    (h : runStage b n step s = some t) (hR : R s s') : ∃ t', runStage b n step s' = some t' ∧ R t t' := by
  cases b with
  | true => exact forPairs_simulated hstep h hR
  | false =>
    cases h
    exact ⟨s', rfl, hR⟩

/-- What every step carries on, a block carries on. -/
theorem procBlock_simulated {f : BitVec 4} (hk : SimulatedByStages n R) (h : procBlock f n s = some t)
    (hR : R s s') : ∃ t', procBlock f n s' = some t' ∧ R t t' := by
  obtain ⟨s1, s2, s3, h1, h2, h3, h4⟩ := procBlock_cases h
  obtain ⟨s1', h1', hR1⟩ := runStage_simulated hk.rvb h1 hR
  obtain ⟨s2', h2', hR2⟩ := runStage_simulated hk.sur h2 hR1
  obtain ⟨s3', h3', hR3⟩ := runStage_simulated hk.bass h3 hR2
  obtain ⟨t', h4', hRt⟩ := runStage_simulated hk.nr h4 hR3
  exact ⟨t', by simp [procBlock, h1', h2', h3', h4'], hRt⟩

end

/-- Within the block capacity `PROC` answers what its block answers (R230, R234). -/
theorem exec_proc_eq_next_iff {n : Nat} (hn : n ≤ 512) (s t : State) :
    exec (.proc n) s = .next t ↔ procBlock s.flags n s = some t := by
  change execProc n s = .next t ↔ _
  rcases execProc_cases n s with ⟨hgt, _⟩ | ⟨_, ⟨u, hu, e⟩ | ⟨hu, e⟩⟩
  · omega
  · rw [e, hu, Host.Outcome.next.injEq, Option.some.injEq]
  · rw [e, hu]
    constructor <;> rintro ⟨⟩

/-! The relation of R78. -/

/-- Two states differ at most in the words of `MIX` and `DRY` at index `2 * n` and beyond. -/
structure AgreeOnBlock (n : Nat) (s s' : State) : Prop where
  rest : s' = { s with mix := s'.mix, dry := s'.dry }
  mix : ∀ j, j < 2 * n → mixWord s' j = mixWord s j
  dry : ∀ j, j < 2 * n → dryWord s' j = dryWord s j

section
variable {n : Nat} {s s' : State}

theorem AgreeOnBlock.flags (ha : AgreeOnBlock n s s') : s'.flags = s.flags := by rw [ha.rest]

theorem AgreeOnBlock.history (ha : AgreeOnBlock n s s') : SameHistory s s' := by
  rw [ha.rest]
  exact ⟨rfl, rfl, rfl, rfl⟩

/-- A pair of the block is the same in both states (R15). -/
theorem AgreeOnBlock.pair (ha : AgreeOnBlock n s s') {i : Nat} (hi : i < n) :
    mixWord s' (2 * i) = mixWord s (2 * i) ∧ mixWord s' (2 * i + 1) = mixWord s (2 * i + 1) ∧
      dryWord s' (2 * i) = dryWord s (2 * i) ∧ dryWord s' (2 * i + 1) = dryWord s (2 * i + 1) :=
  ⟨ha.mix _ (by omega), ha.mix _ (by omega), ha.dry _ (by omega), ha.dry _ (by omega)⟩

theorem AgreeOnBlock.setRvb (ha : AgreeOnBlock n s s') (h : Reverb) : AgreeOnBlock n (s.setRvb h) (s'.setRvb h) :=
  { ha with rest := congrArg (State.setRvb h) ha.rest }

theorem AgreeOnBlock.setSur (ha : AgreeOnBlock n s s') (h : Surround) : AgreeOnBlock n (s.setSur h) (s'.setSur h) :=
  { ha with rest := congrArg (State.setSur h) ha.rest }

theorem AgreeOnBlock.setBass (ha : AgreeOnBlock n s s') (h : Bass) : AgreeOnBlock n (s.setBass h) (s'.setBass h) :=
  { ha with rest := congrArg (State.setBass h) ha.rest }

theorem AgreeOnBlock.setNr (ha : AgreeOnBlock n s s') (h : Noise) : AgreeOnBlock n (s.setNr h) (s'.setNr h) :=
  { ha with rest := congrArg (State.setNr h) ha.rest }

theorem AgreeOnBlock.writePair (ha : AgreeOnBlock n s s') (i : Nat) (l r : Word) :
    AgreeOnBlock n (writePair i l r s) (writePair i l r s') where
  rest := congrArg (State.setMix (Machine.writePair i l r s').mix) ha.rest
  mix j hj := by rw [mixWord_writePair, mixWord_writePair, ha.mix j hj]
  dry := ha.dry

end

/-- A step of a stage reads its history and the words of one pair of the block, and writes equal values back. -/
theorem agreeOnBlock_simulated (n : Nat) : SimulatedByStages n (AgreeOnBlock n) where
  rvb {i s s' t} hi ha h := by
    obtain ⟨hl, hr, hdl, hdr⟩ := ha.pair hi
    unfold rvbStepAt at h ⊢
    rw [ha.history.rvb, hl, hr, hdl, hdr]
    split at h
    case isTrue hin =>
      cases h
      exact ⟨_, if_pos hin, (ha.setRvb _).writePair i _ _⟩
    case isFalse => cases h
  sur {i s s' t} hi ha h := by
    obtain ⟨hl, hr, _, _⟩ := ha.pair hi
    unfold surStepAt at h ⊢
    rw [ha.history.sur, hl, hr]
    split at h
    case isTrue hin =>
      cases h
      exact ⟨_, if_pos hin, (ha.setSur _).writePair i _ _⟩
    case isFalse => cases h
  bass {i s s' t} hi ha h := by
    obtain ⟨hl, hr, _, _⟩ := ha.pair hi
    unfold bassStepAt at h ⊢
    rw [ha.history.bass, hl, hr]
    split at h
    case isTrue hin =>
      cases h
      exact ⟨_, if_pos hin, (ha.setBass _).writePair i _ _⟩
    case isFalse => cases h
  nr {i s s' t} hi ha h := by
    obtain ⟨hl, hr, _, _⟩ := ha.pair hi
    unfold nrStepAt at h ⊢
    rw [ha.history.nr, hl, hr]
    cases h
    exact ⟨_, rfl, (ha.setNr _).writePair i _ _⟩

/-- R230: a block leaves the words of `MIX` beyond it as they were. -/
theorem procBlock_mixBeyond {f : BitVec 4} {n j : Nat} {s t : State} (h : procBlock f n s = some t)
    (hj : 2 * n ≤ j) : mixWord t j = mixWord s j := procBlock_keeps (mixBeyond_kept n j _ hj) h rfl

/-- Settles O47: agreement on the block is carried through the four stages, and a block's frame gives the rest. -/
theorem wordsBeyondTheBlockAreNotRead : Obligations.WordsBeyondTheBlockAreNotRead := by
  intro s s' t n hn hrest hwords h
  have ha : AgreeOnBlock n s s' := ⟨hrest, fun j hj => (hwords j hj).1, fun j hj => (hwords j hj).2⟩
  obtain ⟨t', ht', hb⟩ := procBlock_simulated (agreeOnBlock_simulated n) ((exec_proc_eq_next_iff hn s t).1 h) ha
  rw [← ha.flags] at ht'
  have hframe : SameOutside s' t' := procBlock_sameOutside ht'
  have hdry : t'.dry = s'.dry := by rw [hframe]
  have hresets : t'.resets = s'.resets := by rw [hframe]
  exact ⟨t', (exec_proc_eq_next_iff hn s' t').2 ht', hb.history, hb.mix, fun j => procBlock_mixBeyond ht', hdry,
    dryWord_congr hdry hresets⟩

end Sys2Proof.Machine

/-! PROOF. The host's reads and writes (R64 to R66, R253): which are accepted, the word a read returns, and the step that
performs each. -/

namespace Sys2Proof.Machine

/-- A table has no row for the addresses it does not list, and only for those. -/
theorem lookup_eq_none_iff_notMem {β : Type} {table : List (Nat × β)} {a : Nat} :
    table.lookup a = none ↔ a ∉ table.map Prod.fst := by
  rw [List.lookup_eq_none_iff, List.mem_map]
  simp only [bne_iff_ne]
  exact ⟨fun h ⟨row, hrow, e⟩ => h row hrow e.symm, fun h row hrow e => h ⟨row, hrow, e.symm⟩⟩

/-! The `CSR` space (R64). -/

theorem csrValue_toNat {w : Nat} (hw : w ≤ 32) (v : BitVec w) : (csrValue v).toNat = v.toNat :=
  toNat_ofNat_of_lt (lt_of_lt_of_le v.isLt (Nat.pow_le_pow_right (by decide) hw))

theorem statusWord_toNat (s : State) : (statusWord s).toNat = s.fault.toNat + 2 * s.cause.toNat := by
  have hf := Bool.toNat_le s.fault
  have hc := s.cause.isLt
  exact toNat_ofNat_of_lt (by omega)

theorem csrTable_addresses (s : State) : (csrTable s).map Prod.fst = csrAddresses := rfl

/-- Every row of the table holds the register R25 to R33 put at its address. -/
theorem csrTable_toNat (s : State) : ∀ row ∈ csrTable s, row.2.toNat = csrNat s row.1 := by
  simp [csrTable, csrNat, csrValue_toNat, statusWord_toNat]

theorem csrTable_lookup_eq_none {s : State} {a : Nat} (h : a ∉ csrAddresses) : (csrTable s).lookup a = none := by
  rwa [lookup_eq_none_iff_notMem, csrTable_addresses]

theorem csrTable_lookup_of_mem (s : State) {a : Nat} (h : a ∈ csrAddresses) :
    ∃ x, (csrTable s).lookup a = some x ∧ x.toNat = csrNat s a := by
  cases hx : (csrTable s).lookup a with
  | some x =>
    obtain ⟨_, _, htable, _⟩ := List.lookup_eq_some_iff.1 hx
    exact ⟨x, rfl, csrTable_toNat s (a, x) (by rw [htable]; simp)⟩
  | none =>
    rw [lookup_eq_none_iff_notMem, csrTable_addresses] at hx
    exact absurd h hx

/-! The `RING` space (R65). -/

theorem ringTable_ids (s : State) : (ringTable s).map Prod.fst = List.range 13 := rfl

theorem ringTable_lookup (s : State) (id : Nat) : (ringTable s).lookup id =
    if id ≤ 12 then some (ringCapacities.getD id 0, (ringContents s).getD id []) else none := by
  split
  case isTrue h => interval_cases id <;> rfl
  case isFalse h =>
    rw [lookup_eq_none_iff_notMem, ringTable_ids, List.mem_range]
    omega

theorem ringCapacities_reserved {id : Nat} (h : 12 < id) : ringCapacities.getD id 0 = 0 :=
  List.getD_eq_default _ _ h

/-- R65: a reserved id has the capacity 0, so that no index is below it. -/
theorem ringSpaceRead_eq (s : State) (a : Nat) : ringSpaceRead s a =
    if a % 65536 < ringCapacities.getD (a / 65536) 0
    then some (ringRead ((ringContents s).getD (a / 65536) []) (a % 65536)) else none := by
  unfold ringSpaceRead
  rw [ringTable_lookup]
  by_cases h : a / 65536 ≤ 12
  · rw [if_pos h]
  · rw [if_neg h, ringCapacities_reserved (by omega), if_neg (Nat.not_lt_zero _)]

/-- R65: the address of entry `index` of ring `id`. -/
theorem ringAddress_toNat {id index : Nat} (hid : id < 16) (hindex : index < 65536) :
    (BitVec.ofNat 20 (id * 65536 + index)).toNat = id * 65536 + index := toNat_ofNat_of_lt (by omega)

/-! Which accesses the four spaces accept (R64 to R66). -/

theorem spaceRead_taken (rest : List HostAction) (s : State) : spaceRead (taken rest s) = spaceRead s := rfl

/-- The space is one of the two buffers. -/
theorem space_eq_of_le_one {space : BitVec 2} (h : space.toNat ≤ 1) : space = 0 ∨ space = 1 := by bv_omega

theorem spaceRead_accepted (s : State) {space : BitVec 2} {addr : BitVec 20} (h : ReadAccepted space addr) :
    ∃ v, spaceRead s space addr = some v ∧ AddressedWord s space addr v := by
  rcases h with ⟨hspace, haddr⟩ | ⟨rfl, haddr⟩ | ⟨rfl, haddr⟩
  · rcases space_eq_of_le_one hspace with rfl | rfl
    · exact ⟨mixWord s addr.toNat, if_pos haddr, rfl⟩
    · exact ⟨dryWord s addr.toNat, if_pos haddr, rfl⟩
  · exact csrTable_lookup_of_mem s haddr
  · exact ⟨_, (ringSpaceRead_eq s _).trans (if_pos haddr), rfl⟩

theorem spaceRead_rejected (s : State) {space : BitVec 2} {addr : BitVec 20} (h : ¬ReadAccepted space addr) :
    spaceRead s space addr = none := by
  unfold ReadAccepted at h
  match space with
  | 0 => exact if_neg fun haddr => h (.inl ⟨by decide, haddr⟩)
  | 1 => exact if_neg fun haddr => h (.inl ⟨by decide, haddr⟩)
  | 2 => exact csrTable_lookup_eq_none fun haddr => h (.inr (.inl ⟨rfl, haddr⟩))
  | 3 => exact (ringSpaceRead_eq s _).trans (if_neg fun haddr => h (.inr (.inr ⟨rfl, haddr⟩)))

theorem spaceWrite_rejected (s : State) {space : BitVec 2} {addr : BitVec 20} (v : Word)
    (h : ¬WriteAccepted space addr) : spaceWrite s space addr v = none := by
  rw [Option.eq_none_iff_forall_ne_some]
  intro t ht
  obtain ⟨haddr, ⟨rfl, _⟩ | ⟨rfl, _⟩⟩ := spaceWrite_cases ht
  · exact h ⟨by decide, haddr⟩
  · exact h ⟨by decide, haddr⟩

/-! The step that performs an access. -/

/-- An accepted read returns the addressed word and changes nothing, in every state (R64 to R66, R255). -/
theorem step_read_accepted {s : State} {space : BitVec 2} {addr : BitVec 20} {rest : List HostAction}
    (hp : s.port = .hostRead space addr :: rest) (h : ReadAccepted space addr) :
    ∃ v, AddressedWord s space addr v ∧ step s = .next { s with port := rest, reply := some v } := by
  obtain ⟨v, hv, hword⟩ := spaceRead_accepted s h
  refine ⟨v, hword, ?_⟩
  rw [step_cons hp, perform, hostRead, spaceRead_taken, hv]
  rfl

/-- R253: a rejected read outside the faulted state raises `BadHostAccess`. -/
theorem step_read_rejected {s : State} {space : BitVec 2} {addr : BitVec 20} {rest : List HostAction}
    (hf : s.fault = false) (hp : s.port = .hostRead space addr :: rest) (h : ¬ReadAccepted space addr) :
    step s = .next (raise .badHostAccess (accessInfo space addr) ((taken rest s).setReply (some 0))) := by
  rw [step_cons hp, perform, hostRead, spaceRead_taken, spaceRead_rejected s h, taken_fault, hf]
  rfl

/-- R66: outside the faulted state a write that its space accepts is performed. -/
theorem step_write_accepted {s t : State} {space : BitVec 2} {addr : BitVec 20} {v : Word} {rest : List HostAction}
    (hf : s.fault = false) (hp : s.port = .hostWrite space addr v :: rest)
    (ht : spaceWrite (taken rest s) space addr v = some t) : step s = .next t := by
  rw [step_cons hp, perform, hostWrite, ht, taken_fault, hf]
  rfl

/-- R253: a rejected write outside the faulted state raises `BadHostAccess`. -/
theorem step_write_rejected {s : State} {space : BitVec 2} {addr : BitVec 20} {v : Word} {rest : List HostAction}
    (hf : s.fault = false) (hp : s.port = .hostWrite space addr v :: rest) (h : ¬WriteAccepted space addr) :
    step s = .next (raise .badHostAccess (accessInfo space addr) (taken rest s)) := by
  rw [step_cons hp, perform, hostWrite, spaceWrite_rejected _ v h, taken_fault, hf]
  rfl

/-! The two read-only spaces and the ends of the buffers. -/

theorem readAccepted_csr_iff (addr : BitVec 20) : ReadAccepted 2 addr ↔ addr.toNat ∈ csrAddresses := by
  simp [ReadAccepted]

theorem readAccepted_ring_iff (addr : BitVec 20) :
    ReadAccepted 3 addr ↔ addr.toNat % 65536 < ringCapacities.getD (addr.toNat / 65536) 0 := by
  simp [ReadAccepted]

theorem readAccepted_buffer_iff {space : BitVec 2} (h : space.toNat ≤ 1) (addr : BitVec 20) :
    ReadAccepted space addr ↔ addr.toNat < 1024 := by
  rcases space_eq_of_le_one h with rfl | rfl <;> simp [ReadAccepted]

theorem not_writeAccepted_of_readOnly {space : BitVec 2} (h : 1 < space.toNat) (addr : BitVec 20) :
    ¬WriteAccepted space addr := fun hw => absurd hw.1 (Nat.not_le.2 h)

/-- Settles O14: the write goes through `writeMix` or `writeDry`, which change the addressed word alone. -/
theorem hostAccessesBufferWords : Obligations.HostAccessesBufferWords := by
  intro s rest addr v
  refine ⟨fun hf hp haddr => ?_, fun hf hp haddr => ?_, fun hp haddr => ?_, fun hp haddr => ?_,
    fun space hf hspace haddr hp => ?_⟩
  · exact ⟨_, step_write_accepted hf hp (if_pos haddr), fun j => mixWord_writeMix (taken rest s) addr.toNat j v, rfl⟩
  · exact ⟨_, step_write_accepted hf hp (if_pos haddr), fun j => dryWord_writeDry (taken rest s) addr.toNat j v, rfl⟩
  · obtain ⟨_, rfl, hstep⟩ := step_read_accepted hp (.inl ⟨by decide, haddr⟩)
    exact hstep
  · obtain ⟨_, rfl, hstep⟩ := step_read_accepted hp (.inl ⟨by decide, haddr⟩)
    exact hstep
  · have hout : ¬addr.toNat < 1024 := Nat.not_lt.2 haddr
    rcases hp with hp | hp
    · exact ⟨_, step_write_rejected hf hp fun h => hout h.2, rfl, rfl⟩
    · exact ⟨_, step_read_rejected hf hp fun h => hout ((readAccepted_buffer_iff hspace addr).1 h), rfl, rfl⟩

/-- Settles O15: an address is in the table exactly when it is defined, and its row holds the register. -/
theorem hostReadsRegisters : Obligations.HostReadsRegisters := by
  intro s rest addr v
  refine ⟨fun hp haddr => ?_, fun hf h => ?_⟩
  · obtain ⟨x, hx, hstep⟩ := step_read_accepted hp ((readAccepted_csr_iff addr).2 haddr)
    exact ⟨x, hstep, hx⟩
  · rcases h with ⟨hp, haddr⟩ | hp
    · exact ⟨_, step_read_rejected hf hp fun h => haddr ((readAccepted_csr_iff addr).1 h), rfl, rfl⟩
    · exact ⟨_, step_write_rejected hf hp (not_writeAccepted_of_readOnly (by decide) addr), rfl, rfl⟩

/-- Settles O16: id and index are the quotient and the remainder of the address. -/
theorem hostReadsRingEntries : Obligations.HostReadsRingEntries := by
  intro s rest id index v hid hindex
  have haddr := ringAddress_toNat hid hindex
  have hdiv : (id * 65536 + index) / 65536 = id := by omega
  have hmod : (id * 65536 + index) % 65536 = index := by omega
  have haccepted : ReadAccepted 3 (BitVec.ofNat 20 (id * 65536 + index)) ↔ index < ringCapacities.getD id 0 := by
    rw [readAccepted_ring_iff, haddr, hdiv, hmod]
  refine ⟨fun hp _ hlt => ?_, fun hf h => ?_⟩
  · obtain ⟨x, hx, hstep⟩ := step_read_accepted hp (haccepted.2 hlt)
    have hword : x = ringRead ((ringContents s).getD id []) index := by
      change x = ringRead _ _ at hx
      rwa [haddr, hdiv, hmod] at hx
    rwa [hword] at hstep
  · rcases h with ⟨hp, hout⟩ | hp
    · have hcap : ringCapacities.getD id 0 ≤ index := by
        rcases hout with hreserved | hle
        · exact (ringCapacities_reserved hreserved).trans_le (Nat.zero_le _)
        · exact hle
      exact ⟨_, step_read_rejected hf hp fun h => absurd (haccepted.1 h) (Nat.not_lt.2 hcap), rfl, rfl⟩
    · exact ⟨_, step_write_rejected hf hp (not_writeAccepted_of_readOnly (by decide) _), rfl, rfl⟩

end Sys2Proof.Machine

/-! PROOF. The opcode map, the decoder and the encoder agree (R80 to R86): a word decodes to a command exactly when it
matches the row of the command's format and the operands are its fields. -/

namespace Sys2Proof

/-! The formats of R81: opcode, operand bits, and the row of the opcode map the two make. -/

/-- R81: bits 31:28 of the format's words. -/
def Instr.opcode : Instr → Nat
  | .init _ => 1
  | .proc _ => 2
  | .setrvb _ _ => 3
  | .setbass _ _ => 4
  | .setsur _ _ => 5
  | .setcfg _ => 6
  | .setrate _ => 7

/-- R81: how many low bits of a word the format's operands take. The bits between them and the opcode are reserved. -/
def Instr.width : Instr → Nat
  | .init _ => 1
  | .proc _ => 16
  | .setrvb _ _ => 24
  | .setbass _ _ => 24
  | .setsur _ _ => 24
  | .setcfg _ => 4
  | .setrate _ => 20

/-- R81, R83: the command of the same format whose operands are the fields of `w`. -/
def Instr.readFrom (w : Word) : Instr → Instr
  | .init _ => .init (bits w 0 0)
  | .proc _ => .proc (bits w 15 0)
  | .setrvb _ _ => .setrvb (bits w 23 16) (bits w 15 0)
  | .setbass _ _ => .setbass (bits w 23 16) (bits w 15 0)
  | .setsur _ _ => .setsur (bits w 23 16) (bits w 15 0)
  | .setcfg _ => .setcfg (bits w 3 0)
  | .setrate _ => .setrate (bits w 19 0)

/-- R81: the number that a command's operands make in the low bits of its word. -/
def Instr.operandValue : Instr → Nat
  | .init x | .proc x | .setcfg x | .setrate x => x
  | .setrvb d a | .setbass d a | .setsur d a => d * 2 ^ 16 + a

/-- R82: the row of a format. -/
def Instr.row (i : Instr) : OpcodeRow where
  mnemonic := i.mnemonic
  pattern := BitVec.ofNat 32 (i.opcode * 2 ^ 28)
  mask := BitVec.ofNat 32 (2 ^ 32 - 2 ^ i.width)

theorem Instr.opcode_lt (i : Instr) : i.opcode < 16 := by cases i <;> simp [Instr.opcode]

theorem Instr.width_le (i : Instr) : i.width ≤ 28 := by cases i <;> simp [Instr.width]

theorem Instr.row_mem_opcodeMap (i : Instr) : i.row ∈ opcodeMap := by
  cases i <;> rw [Instr.row, Instr.mnemonic, Instr.opcode, Instr.width] <;> decide

theorem opcodeMap_eq_rows : opcodeMap =
    [Instr.init 0, .proc 0, .setrvb 0 0, .setbass 0 0, .setsur 0 0, .setcfg 0, .setrate 0].map Instr.row := rfl

/-- The opcode map lists the rows of the formats and nothing else. -/
theorem mem_opcodeMap_iff {r : OpcodeRow} : r ∈ opcodeMap ↔ ∃ i : Instr, i.row = r := by
  constructor
  · intro h
    rw [opcodeMap_eq_rows, List.mem_map] at h
    obtain ⟨i, _, hi⟩ := h
    exact ⟨i, hi⟩
  · rintro ⟨i, rfl⟩
    exact i.row_mem_opcodeMap

theorem row_eq_of_mnemonic_eq :
    ∀ r ∈ opcodeMap, ∀ q ∈ opcodeMap, r.mnemonic = q.mnemonic → r = q := by decide

/-! Which words match a row. -/

/-- The opcode is `op` and the reserved bits 27:`k` are 0 exactly when the bits from `k` up are `op` followed by zeros. -/
theorem opcode_reserved_iff (w : Word) {op k : Nat} (hk : k ≤ 28) :
    bits w 31 28 = op ∧ bits w 27 k = 0 ↔ w.toNat / 2 ^ k = op * 2 ^ (28 - k) := by
  have hop : bits w 31 28 = w.toNat / 2 ^ k / 2 ^ (28 - k) := by
    rw [Nat.div_div_eq_div_mul, ← Nat.pow_add, Nat.add_sub_cancel' hk]
    exact Nat.mod_eq_of_lt (by omega)
  have hres : bits w 27 k = w.toNat / 2 ^ k % 2 ^ (28 - k) := rfl
  rw [hop, hres]
  constructor
  · rintro ⟨hdiv, hmod⟩
    rw [← hdiv, Nat.div_mul_cancel (Nat.dvd_of_mod_eq_zero hmod)]
  · intro h
    rw [h]
    exact ⟨Nat.mul_div_cancel _ (Nat.two_pow_pos _), Nat.mul_mod_left _ _⟩

/-- R82: what `(w & mask) = match` says of the opcode and of the reserved bits. -/
theorem row_matches_iff (w : Word) (i : Instr) :
    w &&& i.row.mask = i.row.pattern ↔ bits w 31 28 = i.opcode ∧ bits w 27 i.width = 0 := by
  have hpattern : i.row.pattern.toNat = i.opcode * 2 ^ (28 - i.width) * 2 ^ i.width := by
    rw [Nat.mul_assoc, ← Nat.pow_add, Nat.sub_add_cancel i.width_le]
    exact toNat_ofNat_word (by have := i.opcode_lt; omega)
  have hhigh : i.row.pattern.toNat / 2 ^ i.width = i.opcode * 2 ^ (28 - i.width) := by
    rw [hpattern, Nat.mul_div_cancel _ (Nat.two_pow_pos _)]
  rw [opcode_reserved_iff w i.width_le, ← hhigh]
  exact and_highMask_eq_iff w _ (i.width_le.trans (by decide)) (by rw [hhigh, hpattern])

/-- A matching word is its format's opcode beside its own low bits. -/
theorem toNat_of_row_matches {w : Word} {i : Instr} (h : w &&& i.row.mask = i.row.pattern) :
    w.toNat = i.opcode * 2 ^ 28 + w.toNat % 2 ^ i.width := by
  rw [row_matches_iff, opcode_reserved_iff w i.width_le] at h
  calc w.toNat = w.toNat / 2 ^ i.width * 2 ^ i.width + w.toNat % 2 ^ i.width := (Nat.div_add_mod' _ _).symm
    _ = i.opcode * 2 ^ 28 + w.toNat % 2 ^ i.width := by
      rw [h, Nat.mul_assoc, ← Nat.pow_add, Nat.sub_add_cancel i.width_le]

/-! The decoder. -/

theorem whenReservedZero_eq_ok_iff {op reserved : Nat} {i j : Instr} :
    whenReservedZero op reserved i = .ok j ↔ reserved = 0 ∧ i = j := by
  unfold whenReservedZero
  split <;> simp [*]

theorem decode_of_row_matches {w : Word} {i : Instr} (h : w &&& i.row.mask = i.row.pattern) :
    decode w = .ok (i.readFrom w) := by
  obtain ⟨hop, hres⟩ := (row_matches_iff w i).1 h
  unfold decode
  rw [hop]
  cases i <;> exact whenReservedZero_eq_ok_iff.2 ⟨hres, rfl⟩

theorem row_matches_of_decode {w : Word} {i : Instr} (h : decode w = .ok i) :
    w &&& i.row.mask = i.row.pattern := by
  rw [row_matches_iff]
  unfold decode at h
  split at h
  case h_8 => cases h
  all_goals
    rename_i hop
    obtain ⟨hres, rfl⟩ := whenReservedZero_eq_ok_iff.1 h
    exact ⟨hop, hres⟩

/-- R82, R85: the decoder reads `i` from the words that match `i`'s row and have `i`'s operands in their fields. -/
theorem decode_eq_ok_iff (w : Word) (i : Instr) :
    decode w = .ok i ↔ w &&& i.row.mask = i.row.pattern ∧ i.readFrom w = i := by
  constructor
  · intro h
    have hrow := row_matches_of_decode h
    rw [decode_of_row_matches hrow, Except.ok.injEq] at h
    exact ⟨hrow, h⟩
  · rintro ⟨hrow, hread⟩
    rw [decode_of_row_matches hrow, hread]

theorem decode_eq_error_iff (w : Word) :
    (∃ e, decode w = .error e) ↔ ∀ i : Instr, w &&& i.row.mask ≠ i.row.pattern := by
  constructor
  · rintro ⟨_, he⟩ i hrow
    rw [decode_of_row_matches hrow] at he
    cases he
  · intro h
    cases hd : decode w with
    | error e => exact ⟨e, rfl⟩
    | ok i => exact absurd (row_matches_of_decode hd) (h i)

/-! The fields of a word and the operands of a command. -/

theorem bits_lt (w : Word) (hi lo : Nat) : bits w hi lo < 2 ^ (hi + 1 - lo) := Nat.mod_lt _ (Nat.two_pow_pos _)

/-- R83: operands read from fields fit them. -/
theorem readFrom_wellFormed (w : Word) (i : Instr) : (i.readFrom w).wellFormed = true := by
  have hdepth := bits_lt w 23 16
  have harg := bits_lt w 15 0
  cases i with
  | init _ => exact decide_eq_true (bits_lt w 0 0)
  | proc _ => exact decide_eq_true harg
  | setrvb _ _ | setbass _ _ | setsur _ _ =>
    exact Bool.and_eq_true_iff.2 ⟨decide_eq_true hdepth, decide_eq_true harg⟩
  | setcfg _ => exact decide_eq_true (bits_lt w 3 0)
  | setrate _ => exact decide_eq_true (bits_lt w 19 0)

/-- The operands read from a word are its low bits. -/
theorem readFrom_operandValue (w : Word) (i : Instr) :
    (i.readFrom w).operandValue = w.toNat % 2 ^ i.width := by
  cases i <;> simp only [Instr.readFrom, Instr.operandValue, Instr.width, bits] <;> omega

/-- R81: a command is read back from a word that holds its operands in the low bits. -/
theorem readFrom_eq_self {w : Word} {i : Instr} (hwf : i.wellFormed = true)
    (h : w.toNat % 2 ^ i.width = i.operandValue) : i.readFrom w = i := by
  cases i <;>
    simp only [Instr.wellFormed, Bool.and_eq_true, decide_eq_true_eq, Instr.width, Instr.operandValue] at hwf h <;>
    simp only [Instr.readFrom, bits, Instr.init.injEq, Instr.proc.injEq, Instr.setrvb.injEq, Instr.setbass.injEq,
      Instr.setsur.injEq, Instr.setcfg.injEq, Instr.setrate.injEq] <;>
    omega

/-! The encoder. -/

/-- R86: the word of a well-formed command is its opcode beside its operands. -/
theorem encode_toNat {i : Instr} (h : i.wellFormed = true) :
    (encode i).toNat = i.opcode * 2 ^ 28 + i.operandValue := by
  cases i <;> simp only [Instr.wellFormed, Bool.and_eq_true, decide_eq_true_eq] at h <;>
    rw [Instr.opcode, Instr.operandValue]
  case init r => exact encode_init_toNat h
  case proc n => exact encode_proc_toNat h
  case setrvb d m => exact (encode_setrvb_toNat h.1 h.2).trans (Nat.add_assoc _ _ _)
  case setbass d m => exact (encode_setbass_toNat h.1 h.2).trans (Nat.add_assoc _ _ _)
  case setsur d m => exact (encode_setsur_toNat h.1 h.2).trans (Nat.add_assoc _ _ _)
  case setcfg f => exact encode_setcfg_toNat h
  case setrate r => exact encode_setrate_toNat h

theorem encodeMatchesRow : ∀ i : Instr, Laws.EncodeMatchesRow.Statement i
  | .init r => Laws.EncodeMatchesRow.init r
  | .proc n => Laws.EncodeMatchesRow.proc n
  | .setrvb d m => Laws.EncodeMatchesRow.setrvb d m
  | .setbass d m => Laws.EncodeMatchesRow.setbass d m
  | .setsur d m => Laws.EncodeMatchesRow.setsur d m
  | .setcfg f => Laws.EncodeMatchesRow.setcfg f
  | .setrate r => Laws.EncodeMatchesRow.setrate r

theorem encode_row_matches {i : Instr} (h : i.wellFormed = true) : encode i &&& i.row.mask = i.row.pattern := by
  obtain ⟨r, hr, hmnemonic, hmatch⟩ := encodeMatchesRow i h
  rwa [row_eq_of_mnemonic_eq r hr i.row i.row_mem_opcodeMap hmnemonic] at hmatch

/-- Settles O1: the word matches the command's row and its low bits are the operands. -/
theorem encodedCommandsDecodeBack : Obligations.EncodedCommandsDecodeBack := by
  intro i hwf
  have hrow := encode_row_matches hwf
  have hlow : (encode i).toNat % 2 ^ i.width = i.operandValue :=
    Nat.add_left_cancel ((toNat_of_row_matches hrow).symm.trans (encode_toNat hwf))
  exact (decode_eq_ok_iff _ i).2 ⟨hrow, readFrom_eq_self hwf hlow⟩

/-- Settles O2: a word that matches a row is the row's opcode beside the operands read from it. -/
theorem decodedWordsEncodeBack : Obligations.DecodedWordsEncodeBack := by
  intro w i h
  obtain ⟨hrow, hread⟩ := (decode_eq_ok_iff w i).1 h
  have hwf : i.wellFormed = true := hread ▸ readFrom_wellFormed w i
  have hlow : i.operandValue = w.toNat % 2 ^ i.width := by rw [← readFrom_operandValue, hread]
  refine ⟨hwf, BitVec.eq_of_toNat_eq ?_⟩
  rw [encode_toNat hwf, hlow, ← toNat_of_row_matches hrow]

/-- R82: a word is the command of a row exactly when it matches the row. -/
theorem decode_mnemonic_iff (w : Word) {r : OpcodeRow} (hr : r ∈ opcodeMap) :
    (∃ i, decode w = .ok i ∧ i.mnemonic = r.mnemonic) ↔ w &&& r.mask = r.pattern := by
  constructor
  · rintro ⟨i, hi, hmnemonic⟩
    rw [← row_eq_of_mnemonic_eq i.row i.row_mem_opcodeMap r hr hmnemonic]
    exact row_matches_of_decode hi
  · obtain ⟨i, rfl⟩ := mem_opcodeMap_iff.1 hr
    intro h
    exact ⟨i.readFrom w, decode_of_row_matches h, by cases i <;> rfl⟩

/-- Settles O3: two rows that one word matches have the mnemonic of the one command it decodes to. -/
theorem decoderFollowsOpcodeMap : Obligations.DecoderFollowsOpcodeMap := by
  intro w
  refine ⟨fun r hr => decode_mnemonic_iff w hr, fun r hr q hq hwr hwq => ?_⟩
  obtain ⟨i, hi, hir⟩ := (decode_mnemonic_iff w hr).2 hwr
  obtain ⟨j, hj, hjq⟩ := (decode_mnemonic_iff w hq).2 hwq
  have hij : i = j := Except.ok.inj (hi.symm.trans hj)
  exact row_eq_of_mnemonic_eq r hr q hq (by rw [← hir, ← hjq, hij])

end Sys2Proof

/-! PROOF. Illegal words (R84, R251), the command port (R85), the worked encodings (R88) and the assembler's lines (R86,
R87). -/

namespace Sys2Proof.Machine

/-! Which words are illegal. -/

/-- R84: under a command's opcode the reserved bits decide. -/
theorem illegalWord_iff_reserved {w : Word} {i : Instr} (hop : bits w 31 28 = i.opcode) :
    IllegalWord w ↔ bits w 27 i.width ≠ 0 := by
  unfold IllegalWord
  rw [hop]
  cases i <;> simp [Instr.opcode, Instr.width]

/-- R84: an opcode of no command is 0 or 8 to 15. -/
theorem illegalWord_of_unassigned {w : Word} (h : ∀ i : Instr, bits w 31 28 ≠ i.opcode) : IllegalWord w := by
  have hopcode : bits w 31 28 = 0 ∨ 8 ≤ bits w 31 28 := by
    have hinit : bits w 31 28 ≠ 1 := h (.init 0)
    have hproc : bits w 31 28 ≠ 2 := h (.proc 0)
    have hsetrvb : bits w 31 28 ≠ 3 := h (.setrvb 0 0)
    have hsetbass : bits w 31 28 ≠ 4 := h (.setbass 0 0)
    have hsetsur : bits w 31 28 ≠ 5 := h (.setsur 0 0)
    have hsetcfg : bits w 31 28 ≠ 6 := h (.setcfg 0)
    have hsetrate : bits w 31 28 ≠ 7 := h (.setrate 0)
    omega
  exact hopcode.imp_right .inl

/-- R84 and R82 leave the same words. -/
theorem illegalWord_iff_no_row (w : Word) : IllegalWord w ↔ ∀ i : Instr, w &&& i.row.mask ≠ i.row.pattern := by
  simp only [ne_eq, row_matches_iff, not_and]
  constructor
  · intro h i hop
    exact (illegalWord_iff_reserved hop).1 h
  · intro h
    by_cases hassigned : ∃ i : Instr, bits w 31 28 = i.opcode
    · obtain ⟨i, hop⟩ := hassigned
      exact (illegalWord_iff_reserved hop).2 (h i hop)
    · exact illegalWord_of_unassigned (not_exists.1 hassigned)

theorem decode_eq_error_iff_illegalWord (w : Word) : (∃ e, decode w = .error e) ↔ IllegalWord w :=
  (decode_eq_error_iff w).trans (illegalWord_iff_no_row w).symm

theorem illegalWord_iff_opcodeMap (w : Word) : IllegalWord w ↔ ∀ r ∈ opcodeMap, w &&& r.mask ≠ r.pattern := by
  simp only [illegalWord_iff_no_row, mem_opcodeMap_iff, forall_exists_index, forall_apply_eq_imp_iff]

/-! The step that takes a command word. -/

theorem taken_eq (rest : List HostAction) (s : State) : taken rest s = { s with port := rest, reply := none } := rfl

/-- R251: outside the faulted state an illegal word raises `IllegalCommand`. -/
theorem step_command_illegal {s : State} {w : Word} {rest : List HostAction} (hp : s.port = .command w :: rest)
    (hf : s.fault = false) (hw : IllegalWord w) : step s = .next (raise .illegalCommand w (taken rest s)) := by
  obtain ⟨e, he⟩ := (decode_eq_error_iff_illegalWord w).2 hw
  rw [step_cons hp, perform, acceptCommand, taken_fault, hf, he]
  rfl

/-- R85: outside the faulted state a command is performed. -/
theorem step_command_decoded {s : State} {w : Word} {i : Instr} {rest : List HostAction}
    (hp : s.port = .command w :: rest) (hf : s.fault = false) (hd : decode w = .ok i) :
    step s = exec i (taken rest s) := by
  rw [step_cons hp, perform, acceptCommand, taken_fault, hf, hd]
  rfl

/-- Settles O5: an illegal word has an opcode of no row or a reserved bit outside its row's mask. -/
theorem illegalWordsRaiseIllegalCommand : Obligations.IllegalWordsRaiseIllegalCommand := by
  refine ⟨decode_eq_error_iff_illegalWord, illegalWord_iff_opcodeMap, .inl (by decide), .inr (.inl (by decide)), ?_⟩
  intro s w rest hp hf hw
  exact ⟨_, step_command_illegal hp hf hw, rfl, rfl⟩

/-- Settles O4: the legal words are the encodings of their commands, the others are illegal by R84. -/
theorem workedEncodingsDecode : Obligations.WorkedEncodingsDecode := by
  have hdecode := encodedCommandsDecodeBack
  refine ⟨hdecode (.init 1) rfl, hdecode (.init 0) rfl, hdecode (.proc 4) rfl, hdecode (.proc 512) rfl,
    hdecode (.setrvb 150 10) rfl, hdecode (.setbass 100 50) rfl, hdecode (.setsur 100 4) rfl,
    hdecode (.setcfg 8) rfl, hdecode (.setcfg 15) rfl, hdecode (.setrate 44100) rfl, hdecode (.setrate 1000) rfl, ?_⟩
  simp [decode_eq_error_iff_illegalWord, IllegalWord, bits]

/-! The assembler. -/

theorem assembleInstr_actions (i : Instr) :
    AsmLine.actions (.instr i) = if i.wellFormed then some [.command (encode i)] else none := by
  rw [AsmLine.actions, assembleInstr]
  split <;> rfl

theorem sampleWord_of_fits {x : Int} (h : SampleFits x) : sampleWord x = some (wrap32 x) := if_pos h

theorem sampleWord_of_not_fits {x : Int} (h : ¬SampleFits x) : sampleWord x = none := if_neg h

theorem pairWrites_of_fits (space : BitVec 2) {i : Nat} {l r : Int} (hi : i < 2 ^ 19) (hl : SampleFits l)
    (hr : SampleFits r) : pairWrites space i l r = some
      [.hostWrite space (BitVec.ofNat 20 (2 * i)) (wrap32 l),
        .hostWrite space (BitVec.ofNat 20 (2 * i + 1)) (wrap32 r)] := by
  unfold pairWrites
  rw [if_pos (by omega), sampleWord_of_fits hl, sampleWord_of_fits hr]

/-- R86: one operand that does not fit is an assembler error, whatever the others. -/
theorem pairWrites_of_not_fits (space : BitVec 2) {i : Nat} {l r : Int}
    (h : ¬(i < 2 ^ 19 ∧ SampleFits l ∧ SampleFits r)) : pairWrites space i l r = none := by
  unfold pairWrites
  by_cases hi : i < 2 ^ 19
  · by_cases hl : SampleFits l
    · have hr : ¬SampleFits r := fun hr => h ⟨hi, hl, hr⟩
      rw [sampleWord_of_not_fits hr]
      cases sampleWord l <;> exact ite_self none
    · rw [sampleWord_of_not_fits hl]
      exact ite_self none
  · exact if_neg (by omega)

/-- Settles O6: a pseudo-instruction is encoded as its expansion, and a pair directive goes through `pairWrites`. -/
theorem assemblerGivesHostActions : Obligations.AssemblerGivesHostActions := by
  refine ⟨assembleInstr_actions, rfl, rfl, rfl, rfl,
    fun w => ⟨fun h => if_pos h, fun h => if_neg (Nat.not_lt.2 h)⟩,
    fun _ _ _ => ⟨?_, fun h => ⟨pairWrites_of_not_fits 0 h, pairWrites_of_not_fits 1 h⟩⟩⟩
  rintro ⟨hi, hl, hr⟩
  exact ⟨pairWrites_of_fits 0 hi hl hr, pairWrites_of_fits 1 hi hl hr⟩

/-- Settles O7: only a well-formed command decodes, and the port hands it to `exec`. -/
theorem stepRunsDecodedCommand : Obligations.StepRunsDecodedCommand := by
  intro s w i rest hp hf hd
  exact ⟨(decodedWordsEncodeBack w i hd).1, by rw [step_command_decoded hp hf hd, taken_eq]⟩

end Sys2Proof.Machine

/-! PROOF. The shared components: the mask utility (R100), delay lines (R105) and running-sum filters (R107). A ring of
effective length `L`, read once around from its position, is a queue of `L` words: a store drops the oldest and appends
the new one. The tap is the head of that queue, a running sum is its total. -/

namespace Sys2Proof.Machine

/-! The mask utility. -/

/-- R100: an upper power of two has an exponent at least that of any lower one. -/
theorem exponent_le_of_pow_bounds {m n k j : Nat} (hk : 2 ^ (k - 1) ≤ m) (hmn : m ≤ n) (hj : n < 2 ^ j) : k ≤ j := by
  have h : k - 1 < j := (Nat.pow_lt_pow_iff_right (by decide : 1 < 2)).1 (hk.trans_lt (hmn.trans_lt hj))
  omega

theorem maskOf_mono {m n : Nat} (h : m ≤ n) : maskOf m ≤ maskOf n := by
  rcases Nat.eq_zero_or_pos m with rfl | hm
  · exact Nat.zero_le _
  · obtain ⟨k, _, hkmask, hklow, _⟩ := maskOf_spec hm
    obtain ⟨j, _, hjmask, _, hjup⟩ := maskOf_spec (hm.trans_le h)
    have hpow : 2 ^ k ≤ 2 ^ j := Nat.pow_le_pow_right (by decide) (exponent_le_of_pow_bounds hklow h hjup)
    omega

/-- Settles O50: the exponent of `maskOf_spec` is unique, for each of two exponents bounds the other. -/
theorem maskIsSmallestPowerAbove : Obligations.MaskIsSmallestPowerAbove := by
  refine ⟨rfl, fun n hn => ?_, fun _ _ => maskOf_mono⟩
  obtain ⟨k, hk, hmask, hlow, hup⟩ := maskOf_spec hn
  exact ⟨k, hk, Nat.eq_sub_of_add_eq hmask, hup, hlow, fun _ _ hup' hlow' =>
    Nat.le_antisymm (exponent_le_of_pow_bounds hlow' le_rfl hup) (exponent_le_of_pow_bounds hlow le_rfl hup')⟩

/-! Both advances count modulo the effective length. -/

/-- R101: advancing by the mask `2^k − 1` counts modulo `2^k`, from any position. -/
theorem advanceByMask_toNat {w k : Nat} (hk : k ≤ w) (p : BitVec w) :
    (advanceByMask (2 ^ k - 1) p).toNat = (p.toNat + 1) % 2 ^ k := by
  have hm : 2 ^ k - 1 < 2 ^ w :=
    (Nat.sub_one_lt (Nat.two_pow_pos k).ne').trans_le (Nat.pow_le_pow_right (by decide) hk)
  rw [advanceByMask_spec p hm, Nat.and_two_pow_sub_one_eq_mod]

/-- R103: advancing by size counts modulo the effective length, size 0 being length 1 (D20). -/
theorem advanceBySize_toNat {w n : Nat} (hn : n < 2 ^ w) {p : BitVec w} (hp : p.toNat < max n 1) :
    (advanceBySize n p).toNat = (p.toNat + 1) % max n 1 := by
  unfold advanceBySize
  split
  · have hlast : p.toNat + 1 = max n 1 := by omega
    simp [hlast]
  · have hnext : p.toNat + 1 < max n 1 := by omega
    rw [BitVec.toNat_ofNat, Nat.mod_eq_of_lt (by omega), Nat.mod_eq_of_lt hnext]

/-! The ring as a queue. -/

/-- The entries of a ring of effective length `len`, once around from its position: the oldest first. -/
def ringWindow {w : Nat} (len : Nat) (r : Ring w) : List Word :=
  (List.range len).map fun d => ringRead r.mem ((r.pos.toNat + d) % len)

@[simp] theorem ringWindow_length {w : Nat} (len : Nat) (r : Ring w) : (ringWindow len r).length = len := by
  simp [ringWindow]

@[simp] theorem ringWindow_getElem {w len d : Nat} {r : Ring w} (h : d < (ringWindow len r).length) :
    (ringWindow len r)[d] = ringRead r.mem ((r.pos.toNat + d) % len) := by
  simp [ringWindow]

@[simp] theorem ringWindow_cleared {w : Nat} (len : Nat) :
    ringWindow len (Ring.cleared : Ring w) = List.replicate len 0 := by
  simp [ringWindow, Ring.cleared]

/-- R105: the tap is the oldest entry. -/
theorem ringWindow_eq_tap_cons {w len : Nat} {r : Ring w} (hp : r.pos.toNat < len) :
    ringWindow len r = ringTap r :: (ringWindow len r).tail := by
  have hlen : 0 < (ringWindow len r).length := by rw [ringWindow_length]; omega
  rw [← List.cons_head_tail (List.ne_nil_of_length_pos hlen), List.head_eq_getElem, ringWindow_getElem]
  simp [ringTap, Nat.mod_eq_of_lt hp]

/-- `put` stores at the position and counts the position modulo `len`, which it leaves below `len`. -/
def StoresAround {w : Nat} (len : Nat) (put : Word → Ring w → Ring w) : Prop :=
  ∀ (v : Word) (r : Ring w), r.pos.toNat < len →
    (put v r).mem = ringWrite r.mem r.pos.toNat v ∧ (put v r).pos.toNat = (r.pos.toNat + 1) % len

theorem ringPutMask_storesAround {w k : Nat} (hk : k ≤ w) :
    StoresAround (2 ^ k) (ringPutMask (2 ^ k - 1) : Word → Ring w → Ring w) :=
  fun _ r _ => ⟨rfl, advanceByMask_toNat hk r.pos⟩

theorem ringPutSize_storesAround {w n : Nat} (hn : n < 2 ^ w) :
    StoresAround (max n 1) (ringPutSize n : Word → Ring w → Ring w) :=
  fun _ _ hp => ⟨rfl, advanceBySize_toNat hn hp⟩

section
variable {w len : Nat} {put : Word → Ring w → Ring w} {r : Ring w}

theorem StoresAround.pos_lt (hput : StoresAround len put) (v : Word) (hp : r.pos.toNat < len) :
    (put v r).pos.toNat < len := by
  rw [(hput v r hp).2]
  exact Nat.mod_lt _ (by omega)

/-- A store drops the oldest entry and appends the new one. -/
theorem StoresAround.window_put (hput : StoresAround len put) (v : Word) (hp : r.pos.toNat < len) :
    ringWindow len (put v r) = (ringWindow len r).tail ++ [v] := by
  obtain ⟨hmem, hpos⟩ := hput v r hp
  refine List.ext_getElem (by simp; omega) fun d hd _ => ?_
  rw [ringWindow_length] at hd
  rw [ringWindow_getElem, hmem, hpos, ringRead_ringWrite, Nat.mod_add_mod]
  by_cases hlast : d + 1 < len
  · have hother : (r.pos.toNat + 1 + d) % len ≠ r.pos.toNat := by
      rcases Nat.lt_or_ge (r.pos.toNat + 1 + d) len with h | h
      · rw [Nat.mod_eq_of_lt h]; omega
      · rw [Nat.mod_eq_sub_mod h, Nat.mod_eq_of_lt (by omega)]; omega
    rw [if_neg hother, List.getElem_append_left (by simp; omega), List.getElem_tail, ringWindow_getElem]
    congr 2; omega
  · have hself : (r.pos.toNat + 1 + d) % len = r.pos.toNat := by
      rw [show r.pos.toNat + 1 + d = r.pos.toNat + len by omega, Nat.add_mod_right, Nat.mod_eq_of_lt hp]
    rw [if_pos hself, List.getElem_append_right (by simp; omega)]
    simp

/-- After a list of stores the queue holds the last `len` of its old entries followed by the stored words. -/
theorem StoresAround.window_foldl (hput : StoresAround len put) (vs : List Word) (hp : r.pos.toNat < len) :
    (vs.foldl (fun r v => put v r) r).pos.toNat < len ∧
      ringWindow len (vs.foldl (fun r v => put v r) r) = (ringWindow len r ++ vs).drop vs.length := by
  induction vs generalizing r with
  | nil => simp [hp]
  | cons v vs ih =>
    obtain ⟨hpos, hwin⟩ := ih (hput.pos_lt v hp)
    refine ⟨hpos, hwin.trans ?_⟩
    rw [hput.window_put v hp, ringWindow_eq_tap_cons hp]
    simp

/-- R105: a cleared line of effective length `len` gives back what was stored `len` steps before. -/
theorem StoresAround.ringTap_foldl_cleared (hput : StoresAround len put) (hlen : 0 < len) (vs : List Word) :
    ringTap (vs.foldl (fun r v => put v r) Ring.cleared) =
      if len ≤ vs.length then vs.getD (vs.length - len) 0 else 0 := by
  obtain ⟨hpos, hwin⟩ := hput.window_foldl vs (r := Ring.cleared) hlen
  have htap : ringTap (vs.foldl (fun r v => put v r) Ring.cleared) =
      (List.replicate len (0 : Word) ++ vs).getD vs.length 0 := by
    rw [ringWindow_eq_tap_cons hpos, ringWindow_cleared] at hwin
    rw [List.getD_eq_getElem?_getD, ← List.head?_drop, ← hwin]
    rfl
  rw [htap]
  split
  · rw [List.getD_append_right _ _ _ _ (by simpa), List.length_replicate]
  · rw [List.getD_append _ _ _ _ (by simp; omega), List.getD_replicate _ (by omega)]

end

/-- Settles O51: both kinds of line are queues of their effective length. -/
theorem delayLinesDelayByTheirLength : Obligations.DelayLinesDelayByTheirLength := fun _ vs =>
  ⟨fun n hn => (ringPutSize_storesAround hn).ringTap_foldl_cleared (by omega) vs,
    fun k hk => (ringPutMask_storesAround hk).ringTap_foldl_cleared (Nat.two_pow_pos k) vs⟩

/-! Running-sum filters. -/

/-- A running-sum filter's ring and position, as a delay line. -/
def SumRing.line {w : Nat} (f : SumRing w) : Ring w := { mem := f.mem, pos := f.pos }

/-- R102: a step does to the ring and the position what a delay line's step does. -/
theorem sumStep_line {w : Nat} (m : Nat) (v : Word) (f : SumRing w) :
    (sumStep m v f).line = ringPutMask m v f.line := rfl

theorem foldl_sumStep_line {w : Nat} (m : Nat) (vs : List Word) (f : SumRing w) :
    (vs.foldl (fun f v => sumStep m v f) f).line = vs.foldl (fun r v => ringPutMask m v r) f.line :=
  (List.foldl_hom SumRing.line fun f v => sumStep_line m v f).symm

/-- The exact sum of a list of words, as signed integers. -/
def exactSum (vs : List Word) : Int := (vs.map BitVec.toInt).sum

@[simp] theorem exactSum_cons (v : Word) (vs : List Word) : exactSum (v :: vs) = v.toInt + exactSum vs := by
  simp [exactSum]

@[simp] theorem exactSum_singleton (v : Word) : exactSum [v] = v.toInt := by simp [exactSum]

@[simp] theorem exactSum_append (us vs : List Word) : exactSum (us ++ vs) = exactSum us + exactSum vs := by
  simp [exactSum]

@[simp] theorem exactSum_replicate_zero (n : Nat) : exactSum (List.replicate n 0) = 0 := by
  simp [exactSum]

/-- R104, over the window: a step takes the oldest entry from the sum and adds the new one. -/
theorem sumStep_sum_ringWindow {w k : Nat} (hk : k ≤ w) (v : Word) {f : SumRing w} (hp : f.line.pos.toNat < 2 ^ k)
    (hsum : f.sum = wrap32 (exactSum (ringWindow (2 ^ k) f.line))) :
    (sumStep (2 ^ k - 1) v f).sum = wrap32 (exactSum (ringWindow (2 ^ k) (sumStep (2 ^ k - 1) v f).line)) := by
  have hstep : (sumStep (2 ^ k - 1) v f).sum = f.sum - ringTap f.line + v := rfl
  rw [ringWindow_eq_tap_cons hp, exactSum_cons, wrap32_add, wrap32_toInt_self] at hsum
  rw [sumStep_line, (ringPutMask_storesAround hk).window_put v hp, exactSum_append, exactSum_singleton,
    wrap32_add, wrap32_toInt_self, hstep, hsum, add_sub_cancel_left]

/-- R104 along a list of inputs. -/
theorem foldl_sumStep_sum {w k : Nat} (hk : k ≤ w) (vs : List Word) {f : SumRing w} (hp : f.line.pos.toNat < 2 ^ k)
    (hsum : f.sum = wrap32 (exactSum (ringWindow (2 ^ k) f.line))) :
    (vs.foldl (fun f v => sumStep (2 ^ k - 1) v f) f).sum =
      wrap32 (exactSum (ringWindow (2 ^ k) (vs.foldl (fun f v => sumStep (2 ^ k - 1) v f) f).line)) := by
  induction vs generalizing f with
  | nil => exact hsum
  | cons v vs ih =>
    exact ih ((ringPutMask_storesAround hk).pos_lt v hp) (sumStep_sum_ringWindow hk v hp hsum)

/-- Settles O52: the sum is the total of the queue, and what the queue holds besides the last inputs is 0. -/
theorem runningSumIsBoxcar : Obligations.RunningSumIsBoxcar := by
  intro w k vs hk
  have hp : (SumRing.cleared : SumRing w).line.pos.toNat < 2 ^ k := Nat.two_pow_pos k
  have hline : (SumRing.cleared : SumRing w).line = Ring.cleared := rfl
  have hsum : (SumRing.cleared : SumRing w).sum =
      wrap32 (exactSum (ringWindow (2 ^ k) (SumRing.cleared : SumRing w).line)) := by
    rw [hline, ringWindow_cleared, exactSum_replicate_zero]; rfl
  obtain ⟨-, hwin⟩ := (ringPutMask_storesAround hk).window_foldl vs hp
  rw [foldl_sumStep_sum hk vs hp hsum, foldl_sumStep_line, hwin, hline, ringWindow_cleared, List.drop_append,
    List.drop_replicate, exactSum_append, exactSum_replicate_zero, List.length_replicate, Int.zero_add]
  rfl

end Sys2Proof.Machine

/-! PROOF. What the initializer leaves (R120 to R134): each of its parts meets its rule, in both commands that run it. -/

namespace Sys2Proof.Machine

/-! Both commands that run the initializer answer `initialise`, with the flags set before it (R120, R216). -/

theorem exec_init (reset : Nat) (s : State) : exec (.init reset) s = .next (initialise (reset == 1) s) := rfl

theorem exec_setcfg (flags : Nat) (s : State) :
    exec (.setcfg flags) s = .next (initialise false (s.setFlags (BitVec.ofNat 4 flags))) := rfl

/-- What `initialise` leaves for every `reset` and every flags, both commands leave. -/
theorem bothInit_of_initialise {s : State} {P : Bool → BitVec 4 → State → Prop}
    (h : ∀ reset f, P reset f (initialise reset (s.setFlags f))) : BothInit s P :=
  ⟨fun reset _ => ⟨_, exec_init reset s, h (reset == 1) s.flags⟩,
    fun flags _ => ⟨_, exec_setcfg flags s, h false (BitVec.ofNat 4 flags)⟩⟩

theorem eq_initialise_of_runsInit {i : Instr} {s t : State} (hi : RunsInit i) (h : exec i s = .next t) :
    ∃ reset f, t = initialise reset (s.setFlags f) := by
  rcases hi with ⟨reset, rfl⟩ | ⟨flags, rfl⟩ <;> cases h
  · exact ⟨reset == 1, s.flags, rfl⟩
  · exact ⟨false, BitVec.ofNat 4 flags, rfl⟩

/-! The parameters (R121). -/

theorem initialise_sanitised (reset : Bool) (s : State) : Sanitised s (initialise reset s) := by
  rw [initialise_eq]
  exact ⟨rfl, rfl, rfl, rfl, rfl, saneBassDepth_toNat s⟩

theorem initialise_sameParams (reset : Bool) {s : State} (hs : s.ParamsLegal) :
    SameParams s (initialise reset s) := by
  obtain ⟨hdelay, hrange, hsur, hdepth⟩ := sane_of_legal hs
  rw [initialise_eq]
  exact ⟨rfl, hdelay, hdepth, hrange, rfl, hsur⟩

theorem initialise_framed (reset : Bool) (s : State) : InitFramed s.flags s (initialise reset s) := by
  rw [initialise_eq]
  rfl

/-- Settles O22: `initialise_eq` lists the fields `INIT` writes, and sanitising changes no legal parameter. -/
theorem initSanitisesAndFrames : Obligations.InitSanitisesAndFrames := fun s =>
  bothInit_of_initialise fun reset f =>
    ⟨initialise_sanitised reset (s.setFlags f),
      fun hs => { initialise_sameParams reset (s := s.setFlags f) { hs with } with },
      initialise_framed reset (s.setFlags f)⟩

/-! The surround curve (R132). -/

theorem surMultOf_range : (List.range 17).map surMultOf = surMultTable := by decide

theorem surCurve_of_ge {d : Nat} (h : 16 ≤ d) : surCurve d = 64 := by
  unfold surCurve
  rw [if_neg (by omega), if_neg (by omega)]

/-- Settles O27: seventeen values are evaluated; beyond them the curve is constant. -/
theorem surroundCurveFollowsItsTable : Obligations.SurroundCurveFollowsItsTable :=
  ⟨by decide, surMultOf_range, fun _ => surCurve_of_ge⟩

theorem surMultOf_eq_table (d : Nat) : surMultOf d = surMultTable.getD d 16 := by
  rw [← surMultOf_range]
  by_cases h : d < 17
  · simp [List.getD_eq_getElem?_getD, h]
  · have hc : surMultOf d = surCurve d / 4 := rfl
    rw [hc, surCurve_of_ge (by omega), List.getD_eq_default _ _ (by simpa using h)]

/-! The stages (R122 to R125): first the enabled branch of each as a function of the stage's state, then the stage after
`INIT`. -/

/-- R122: the enabled branch sets the registers and clears the history when it is triggered, else it does nothing. -/
theorem initRvbOn_triggered (reset : Bool) {n a : Nat} (hn : n ≤ 10000) (ha : a ≤ 5) (h : Reverb) :
    if reset = true ∨ n ≠ h.size1.toNat ∨ a ≠ h.attn.toNat then
      (initRvbOn reset n a h).attn.toNat = a ∧ (initRvbOn reset n a h).size1.toNat = n ∧
        (initRvbOn reset n a h).size2.toNat = rvbLength2 n ∧ (initRvbOn reset n a h).size3.toNat = rvbLength3 n ∧
        (initRvbOn reset n a h).size4.toNat = rvbLength4 n ∧ ReverbCleared (initRvbOn reset n a h)
    else initRvbOn reset n a h = h := by
  rcases initRvbOn_cases reset n a h with ⟨hc, e⟩ | ⟨hc, e⟩
  · have h2 := rvbLength2_le n
    have h3 := rvbLength3_le n
    have h4 := rvbLength4_le n
    rw [e, if_pos hc]
    exact ⟨toNat_ofNat_of_lt (by omega), toNat_ofNat_of_lt (by omega), toNat_ofNat_of_lt (by omega),
      toNat_ofNat_of_lt (by omega), toNat_ofNat_of_lt (by omega), clearRvb_cleared _⟩
  · rw [e, if_neg hc]

/-- R123: the multiplier is set in any case, the size with the history cleared when triggered. -/
theorem initSurOn_triggered (reset : Bool) {n k : Nat} (hn : n ≤ 2500) (hk : k ≤ 16) (h : Surround) :
    (initSurOn reset n k h).mult.toNat = k ∧
      if reset = true ∨ n ≠ h.size.toNat then
        (initSurOn reset n k h).size.toNat = n ∧ SurroundCleared (initSurOn reset n k h)
      else initSurOn reset n k h = { h with mult := (initSurOn reset n k h).mult } := by
  rcases initSurOn_cases reset n k h with ⟨hc, e⟩ | ⟨hc, e⟩
  · rw [e, if_pos hc]
    exact ⟨toNat_ofNat_of_lt (by omega), toNat_ofNat_of_lt (by omega), clearSur_cleared _⟩
  · rw [e, if_neg hc]
    exact ⟨toNat_ofNat_of_lt (by omega), rfl⟩

/-- R124: the shift is set in any case, the mask with the history cleared when triggered. -/
theorem initBassOn_triggered (reset : Bool) {m k : Nat} (hm : m ≤ 127) (hk : k ≤ 9) (h : Bass) :
    (initBassOn reset m k h).shift.toNat = k ∧
      if reset = true ∨ m ≠ h.mask.toNat then
        (initBassOn reset m k h).mask.toNat = m ∧ BassCleared (initBassOn reset m k h)
      else initBassOn reset m k h = { h with shift := (initBassOn reset m k h).shift } := by
  rcases initBassOn_cases reset m k h with ⟨hc, e⟩ | ⟨hc, e⟩
  · rw [e, if_pos hc]
    exact ⟨toNat_ofNat_of_lt (by omega), toNat_ofNat_of_lt (by omega), clearBass_cleared _⟩
  · rw [e, if_neg hc]
    exact ⟨toNat_ofNat_of_lt (by omega), rfl⟩

theorem rvbAfterInit_on (reset : Bool) {s : State} (hf : flagRvb s.flags = true) : rvbAfterInit reset s =
    initRvbOn reset (rvbLength (saneRvbDelay s).toNat s.rate.toNat) (s.rvbDepth.toNat + 1) s.rvb := by
  unfold rvbAfterInit
  rw [hf, cond_true]

theorem rvbAfterInit_off (reset : Bool) {s : State} (hf : flagRvb s.flags = false) :
    rvbAfterInit reset s = initRvbOff reset s.rvb := by
  unfold rvbAfterInit
  rw [hf, cond_false]

theorem surAfterInit_on (reset : Bool) {s : State} (hf : flagSur s.flags = true) : surAfterInit reset s =
    initSurOn reset (surLength (saneSurDelay s).toNat s.rate.toNat) (surMultOf s.surDepth.toNat) s.sur := by
  unfold surAfterInit
  rw [hf, cond_true]

theorem surAfterInit_off (reset : Bool) {s : State} (hf : flagSur s.flags = false) :
    surAfterInit reset s = initSurOff reset s.sur := by
  unfold surAfterInit
  rw [hf, cond_false]

theorem bassAfterInit_on (reset : Bool) {s : State} (hf : flagBass s.flags = true) : bassAfterInit reset s =
    initBassOn reset (maskOf (bassWindow s.rate.toNat (saneBassRange s).toNat)) ((saneBassDepth s).toNat + 1)
      s.bass := by
  unfold bassAfterInit
  rw [hf, cond_true]

theorem bassAfterInit_off (reset : Bool) {s : State} (hf : flagBass s.flags = false) :
    bassAfterInit reset s = initBassOff reset s.bass := by
  unfold bassAfterInit
  rw [hf, cond_false]

theorem initialise_reverbInitialised (reset : Bool) {s : State} (hd : s.rvbDepth.toNat ≤ 4) :
    ReverbInitialised reset s.flags s (initialise reset s) := by
  rw [initialise_eq, ReverbInitialised]
  split
  case isTrue on =>
    rw [rvbAfterInit_on reset on]
    exact initRvbOn_triggered reset (rvbLength_le _ _) (by omega) s.rvb
  case isFalse off =>
    rw [rvbAfterInit_off reset (Bool.eq_false_of_not_eq_true off)]
    cases reset with
    | true => exact ⟨rfl, rfl, rfl, rfl, rfl, clearRvb_cleared _⟩
    | false => exact ⟨rfl, rfl, rfl, rfl, rfl, rfl⟩

theorem initialise_surroundInitialised (reset : Bool) (s : State) :
    SurroundInitialised reset s.flags s (initialise reset s) := by
  rw [initialise_eq, SurroundInitialised]
  split
  case isTrue on =>
    rw [surAfterInit_on reset on, ← surMultOf_eq_table]
    exact initSurOn_triggered reset (surLength_le _ _) (surMultOf_bounds _).2 s.sur
  case isFalse off =>
    rw [surAfterInit_off reset (Bool.eq_false_of_not_eq_true off)]
    cases reset with
    | true => exact ⟨rfl, rfl, clearSur_cleared _⟩
    | false => exact ⟨rfl, rfl, rfl⟩

theorem initialise_bassInitialised (reset : Bool) (s : State) :
    BassInitialised reset s.flags s (initialise reset s) := by
  have hdepth := saneBassDepth_toNat s
  rw [initialise_eq, BassInitialised]
  split
  case isTrue on =>
    rw [bassAfterInit_on reset on]
    exact initBassOn_triggered reset (maskOf_le (bassWindow_le _ _)) (by omega) s.bass
  case isFalse off =>
    rw [bassAfterInit_off reset (Bool.eq_false_of_not_eq_true off)]
    cases reset with
    | true => exact ⟨rfl, rfl, clearBass_cleared _⟩
    | false => exact ⟨rfl, rfl, rfl⟩

theorem initialise_noiseInitialised (reset : Bool) (s : State) : NoiseInitialised reset s (initialise reset s) := by
  rw [initialise_eq]
  cases reset with
  | true => exact ⟨rfl, rfl⟩
  | false => exact rfl

/-- Settles O23, from the reverb part of `initialise`. -/
theorem initDerivesReverb : Obligations.InitDerivesReverb := fun s hd =>
  bothInit_of_initialise fun reset f => initialise_reverbInitialised reset (s := s.setFlags f) hd

/-- Settles O24, from the surround part of `initialise`. -/
theorem initDerivesSurround : Obligations.InitDerivesSurround := fun s =>
  bothInit_of_initialise fun reset f => initialise_surroundInitialised reset (s.setFlags f)

/-- Settles O25, from the bass part of `initialise`. -/
theorem initDerivesBass : Obligations.InitDerivesBass := fun s =>
  bothInit_of_initialise fun reset f => initialise_bassInitialised reset (s.setFlags f)

/-- Settles O26, from the noise-reduction part of `initialise`. -/
theorem initClearsNoiseOnlyOnReset : Obligations.InitClearsNoiseOnlyOnReset := fun s =>
  bothInit_of_initialise fun reset f => initialise_noiseInitialised reset (s.setFlags f)

end Sys2Proof.Machine

/-! PROOF. The settled machine (R130): `INIT` settles it, a settled one it leaves as it is, and no other action writes an
active register. -/

namespace Sys2Proof.Machine

/-! The registers the parts of `INIT` leave for an enabled stage, triggered or not. -/

section
variable {reset : Bool} {f : BitVec 4} {s t : State}

theorem ReverbInitialised.on (h : ReverbInitialised reset f s t) (hf : f.getLsbD 0 = true) :
    t.rvb.size1.toNat = min (t.rvbDelay.toNat * s.rate.toNat / 1000) 10000 ∧
      t.rvb.attn.toNat = s.rvbDepth.toNat + 1 := by
  rw [ReverbInitialised, if_pos hf] at h
  split at h
  case isTrue =>
    obtain ⟨hattn, hsize, _⟩ := h
    exact ⟨hsize, hattn⟩
  case isFalse hc =>
    rw [h]
    omega

theorem SurroundInitialised.on (h : SurroundInitialised reset f s t) (hf : f.getLsbD 1 = true) :
    t.sur.size.toNat = min (t.surDelay.toNat * s.rate.toNat / 1000) 2500 ∧
      t.sur.mult.toNat = surMultTable.getD s.surDepth.toNat 16 := by
  rw [SurroundInitialised, if_pos hf] at h
  obtain ⟨hmult, h⟩ := h
  refine ⟨?_, hmult⟩
  split at h
  case isTrue => exact h.1
  case isFalse hc =>
    have hsize : t.sur.size = s.sur.size := by rw [h]
    rw [hsize]
    omega

theorem BassInitialised.on (h : BassInitialised reset f s t) (hf : f.getLsbD 2 = true) :
    t.bass.mask.toNat = maskOf (min (s.rate.toNat * t.bassRange.toNat / 10000) 64) ∧
      t.bass.shift.toNat = t.bassDepth.toNat + 1 := by
  rw [BassInitialised, if_pos hf] at h
  obtain ⟨hshift, h⟩ := h
  refine ⟨?_, hshift⟩
  split at h
  case isTrue => exact h.1
  case isFalse hc =>
    have hmask : t.bass.mask = s.bass.mask := by rw [h]
    rw [hmask]
    omega

end

/-- R121 to R124: from legal parameters `INIT` settles the machine. -/
theorem initialise_settled (reset : Bool) {s : State} (hs : s.ParamsLegal) : (initialise reset s).Settled := by
  have hframe : InitFramed s.flags s (initialise reset s) := initialise_framed reset s
  have hflags : (initialise reset s).flags = s.flags := by rw [hframe]
  have hrate : (initialise reset s).rate = s.rate := by rw [hframe]
  have hp := initialise_sameParams reset hs
  have hready := initialise_stagesReady reset hs
  exact
    { params := initialise_paramsLegal reset hs
      rvbOn hf := by
        rw [hrate, hp.rvbDepth]
        exact (initialise_reverbInitialised reset hs.rvbDepth).on (hflags ▸ hf)
      surOn hf := by
        rw [hrate, hp.surDepth]
        exact (initialise_surroundInitialised reset s).on (hflags ▸ hf)
      bassOn hf := by
        rw [hrate]
        exact (initialise_bassInitialised reset s).on (hflags ▸ hf)
      rvbOff := hready.rvbOff
      surOff := hready.surOff
      bassOff := hready.bassOff }

theorem settled_of_runsInit {i : Instr} {s t : State} (hs : s.ParamsLegal) (hi : RunsInit i)
    (h : exec i s = .next t) : t.Settled := by
  obtain ⟨reset, f, rfl⟩ := eq_initialise_of_runsInit hi h
  exact initialise_settled reset { hs with }

/-! In a settled state no part of `INIT 0` is triggered, and none changes what it rewrites (R130). -/

theorem initRvbOff_of_zero {h : Reverb} (h1 : h.size1 = 0) (h2 : h.size2 = 0) (h3 : h.size3 = 0) (h4 : h.size4 = 0) :
    initRvbOff false h = h := by
  cases h
  cases h1
  cases h2
  cases h3
  cases h4
  rfl

theorem rvbAfterInit_of_settled {s : State} (hs : s.Settled) : rvbAfterInit false s = s.rvb := by
  cases hf : flagRvb s.flags with
  | true =>
    obtain ⟨hsize, hattn⟩ := hs.rvbOn hf
    obtain ⟨hdelay, _⟩ := sane_of_legal hs.params
    rw [rvbAfterInit_on false hf, hdelay, ← hattn]
    rcases initRvbOn_cases false (rvbLength s.rvbDelay.toNat s.rate.toNat) s.rvb.attn.toNat s.rvb with
      ⟨hc, _⟩ | ⟨_, e⟩
    · simp [hsize, rvbLength] at hc
    · exact e
  | false =>
    obtain ⟨h1, h2, h3, h4⟩ := hs.rvbOff hf
    rw [rvbAfterInit_off false hf, initRvbOff_of_zero h1 h2 h3 h4]

theorem surAfterInit_of_settled {s : State} (hs : s.Settled) : surAfterInit false s = s.sur := by
  cases hf : flagSur s.flags with
  | true =>
    obtain ⟨hsize, hmult⟩ := hs.surOn hf
    obtain ⟨_, _, hdelay, _⟩ := sane_of_legal hs.params
    rw [surAfterInit_on false hf, hdelay, surMultOf_eq_table, ← hmult]
    rcases initSurOn_cases false (surLength s.surDelay.toNat s.rate.toNat) s.sur.mult.toNat s.sur with
      ⟨hc, _⟩ | ⟨_, e⟩
    · simp [hsize, surLength] at hc
    · rw [e, BitVec.ofNat_toNat, BitVec.setWidth_eq]
  | false =>
    rw [surAfterInit_off false hf]
    simp [initSurOff, ← hs.surOff hf]

theorem bassAfterInit_of_settled {s : State} (hs : s.Settled) : bassAfterInit false s = s.bass := by
  cases hf : flagBass s.flags with
  | true =>
    obtain ⟨hmask, hshift⟩ := hs.bassOn hf
    obtain ⟨_, hrange, _, hdepth⟩ := sane_of_legal hs.params
    rw [bassAfterInit_on false hf, hrange, hdepth, ← hshift]
    rcases initBassOn_cases false (maskOf (bassWindow s.rate.toNat s.bassRange.toNat)) s.bass.shift.toNat s.bass with
      ⟨hc, _⟩ | ⟨_, e⟩
    · simp [hmask, bassWindow] at hc
    · rw [e, BitVec.ofNat_toNat, BitVec.setWidth_eq]
  | false =>
    rw [bassAfterInit_off false hf]
    simp [initBassOff, ← hs.bassOff hf]

/-- R130: in a settled state `INIT 0` is the identity. -/
theorem initialise_of_settled {s : State} (hs : s.Settled) : initialise false s = s := by
  obtain ⟨hdelay, hrange, hsur, hdepth⟩ := sane_of_legal hs.params
  rw [initialise_eq, hdelay, hrange, hsur, hdepth, rvbAfterInit_of_settled hs, surAfterInit_of_settled hs,
    bassAfterInit_of_settled hs]
  rfl

theorem exec_init_zero_of_settled {s : State} (hs : s.Settled) : exec (.init 0) s = .next s :=
  congrArg Host.Outcome.next (initialise_of_settled hs)

/-- Settles O30: the initializer's parts leave the registers that being settled asks for, and rewrite nothing where they
find them. -/
theorem initSettlesTheMachine : Obligations.InitSettlesTheMachine :=
  ⟨fun _ _ _ => settled_of_runsInit, fun _ => exec_init_zero_of_settled⟩

/-! An action that neither resets nor initialises writes no active register (R133). -/

/-- What one action can do to a property of this state (R63): a value returned, a fault entered and an accepted write
keep it; the hard reset and the decoded command have to be looked at. -/
theorem perform_keeps {P : State → Prop} {a : HostAction} {s t : State} (h : perform a s = .next t) (hs : P s)
    (hreset : a = .hardReset → P (hardReset s))
    (hreply : ∀ r u, P u → P (u.setReply r))
    (hraise : ∀ c x u, P u → P (raise c x u))
    (hmix : ∀ j v u, P u → P (writeMix j v u))
    (hdry : ∀ j v u, P u → P (writeDry j v u))
    (hexec : ∀ w i, a = .command w → decode w = .ok i → exec i s = .next t → P t) : P t := by
  cases a with
  | hardReset =>
    cases h
    exact hreset rfl
  | command w =>
    change acceptCommand w s = _ at h
    rcases acceptCommand_cases w s with ⟨_, e⟩ | ⟨_, _, e⟩ | ⟨_, i, hd, e⟩ <;> rw [e] at h
    · cases h
      exact hs
    · cases h
      exact hraise _ _ _ hs
    · exact hexec w i rfl hd h
  | hostRead space addr =>
    cases h
    rcases hostRead_cases space addr s with ⟨v, _, e⟩ | ⟨_, _, e⟩ | ⟨_, _, e⟩ <;> rw [e]
    · exact hreply _ _ hs
    · exact hreply _ _ hs
    · exact hraise _ _ _ (hreply _ _ hs)
  | hostWrite space addr v =>
    cases h
    rcases hostWrite_cases space addr v s with ⟨_, e⟩ | ⟨_, u, hu, e⟩ | ⟨_, _, e⟩ <;> rw [e]
    · exact hs
    · obtain ⟨_, ⟨_, rfl⟩ | ⟨_, rfl⟩⟩ := spaceWrite_cases hu
      · exact hmix _ _ _ hs
      · exact hdry _ _ _ hs
    · exact hraise _ _ _ hs

/-- R133: an action that does not reconfigure the machine writes no active register. -/
theorem perform_sameActive {a : HostAction} {s t : State} (ha : ¬a.reconfigures) (h : perform a s = .next t) :
    SameActive s t :=
  perform_keeps h (SameActive.refl s) (fun e => absurd (e ▸ trivial) ha) (fun _ _ hu => { hu with })
    (fun _ _ _ hu => { hu with }) (fun _ _ _ hu => { hu with }) (fun _ _ _ hu => { hu with })
    fun _ i e hd he => (exec_onlyByWriters he).active.resolve_right fun hi => ha (e ▸ ⟨i, hd, hi⟩)

/-- An action that reconfigures the machine settles it, or finds it in the faulted state (R130, R255). -/
theorem perform_settled {a : HostAction} {s t : State} (ha : a.reconfigures) (hs : s.Settled)
    (h : perform a s = .next t) : t.Settled := by
  cases a with
  | hardReset =>
    cases h
    exact { reset_settled with params := { reset_paramsLegal with } }
  | command w =>
    obtain ⟨i, hd, hi⟩ := ha
    change acceptCommand w s = _ at h
    rcases acceptCommand_cases w s with ⟨_, e⟩ | ⟨_, ⟨x, hx⟩, _⟩ | ⟨_, j, hj, e⟩
    · cases e.symm.trans h
      exact hs
    · cases hd.symm.trans hx
    · cases hd.symm.trans hj
      exact settled_of_runsInit hs.params hi (e.symm.trans h)
  | hostRead _ _ | hostWrite _ _ _ => exact ha.elim

/-- Settles O29: an action that reconfigures settles the machine again; any other leaves the active registers, and being
settled depends on them and the configuration alone. -/
theorem settledMachineStaysSettled : Obligations.SettledMachineStaysSettled := by
  intro s t hs h hc
  rcases step_cases s with ⟨_, e⟩ | ⟨a, rest, _, e⟩ <;> rw [e] at h
  · cases h
    exact hs
  · by_cases ha : a.reconfigures
    · exact perform_settled ha (s := taken rest s) { hs with params := { hs.params with } } h
    · exact hs.of_same hc { perform_sameActive ha h with }

/-! Runs without a reconfiguration (R130). -/

theorem initialise_port (reset : Bool) (s : State) : (initialise reset s).port = s.port := by rw [initialise_eq]

theorem exec_port {i : Instr} {s t : State} (h : exec i s = .next t) : t.port = s.port := by
  rcases exec_cases h with ⟨_, _, rfl⟩ | ⟨_, _, _, rfl⟩ | ⟨_, _, _, hp⟩ | ⟨_, _, _, rfl⟩ | ⟨_, _, _, rfl⟩ |
    ⟨_, _, _, rfl⟩ | ⟨_, _, rfl⟩ | ⟨_, _, rfl⟩
  · exact initialise_port _ s
  · rfl
  · rw [procBlock_sameOutside hp]
  · rfl
  · rfl
  · rfl
  · exact initialise_port false (s.setFlags _)
  · rfl

/-- No action adds to the port or takes from it: the step has taken the action before performing it (log 4). -/
theorem perform_port {a : HostAction} {s t : State} (h : perform a s = .next t) : t.port = s.port :=
  perform_keeps (P := fun u => u.port = s.port) h rfl (fun _ => rfl) (fun _ _ hu => hu) (fun _ _ _ hu => hu)
    (fun _ _ _ hu => hu) (fun _ _ _ hu => hu) fun _ _ _ _ he => exec_port he

theorem SameActive.trans {s t u : State} (h : SameActive s t) (h' : SameActive t u) : SameActive s u :=
  ⟨h'.size1.trans h.size1, h'.size2.trans h.size2, h'.size3.trans h.size3, h'.size4.trans h.size4,
    h'.attn.trans h.attn, h'.surSize.trans h.surSize, h'.mult.trans h.mult, h'.mask.trans h.mask,
    h'.shift.trans h.shift⟩

/-- A run that goes on took its first step and went on from there. -/
theorem next_of_run_succ (M : Host.Core) (n : Nat) {s u : M.State} (h : M.run (n + 1) s = .next u) :
    ∃ t, M.step s = .next t ∧ M.run n t = .next u := by
  rw [Host.Core.run] at h
  split at h
  case h_1 t ht => exact ⟨t, ht, h⟩
  all_goals cases h

/-- R133: a program without a reconfiguration leaves the active registers as they were. -/
theorem run_sameActive (n : Nat) {s u : State} (hp : ∀ a ∈ s.port, ¬a.reconfigures)
    (h : Host.Core.run Sys2Proof.core n s = .next u) : SameActive s u := by
  induction n generalizing s with
  | zero =>
    cases h
    exact SameActive.refl _
  | succ n ih =>
    obtain ⟨t, ht, hu⟩ := next_of_run_succ Sys2Proof.core n h
    change step s = _ at ht
    rcases step_cases s with ⟨_, e⟩ | ⟨a, rest, hport, e⟩ <;> rw [e] at ht
    · cases ht
      exact ih hp hu
    · have htp : t.port = rest := perform_port ht
      rw [hport] at hp
      have hat : SameActive s t := { perform_sameActive (hp a List.mem_cons_self) ht with }
      exact hat.trans (ih (htp ▸ fun b hb => hp b (List.mem_cons_of_mem a hb)) hu)

/-- Settles O28: `INIT` settles the machine, the actions leave its active registers, and `INIT 0` changes nothing in the
settled state they lead to. -/
theorem repeatedInitChangesNothing : Obligations.RepeatedInitChangesNothing := by
  intro s t i hs hi h
  have ht : t.Settled := settled_of_runsInit hs hi h
  refine ⟨fun u hc ha => exec_init_zero_of_settled (ht.of_same hc ha), fun acts u hacts hrun hc => ?_⟩
  have ha := run_sameActive acts.length (s := { t with port := acts }) hacts hrun
  exact exec_init_zero_of_settled (ht.of_same hc { ha with })

end Sys2Proof.Machine

/-! PROOF. `INIT 1` clears every history, and a block of zeros then leaves only zeros (R131). -/

namespace Sys2Proof.Machine

/-! `INIT 1` triggers every part, whatever `FLAGS` holds (R122 to R125). -/

/-- R122: with `reset = 1` the reverb stage is cleared, with sizes within its capacities. -/
theorem rvbAfterInit_reset (s : State) : ∃ h : Reverb, rvbAfterInit true s = clearRvb h ∧
    h.size1.toNat ≤ 10000 ∧ h.size2.toNat ≤ 7647 ∧ h.size3.toNat ≤ 5384 ∧ h.size4.toNat ≤ 3684 := by
  cases hf : flagRvb s.flags with
  | true =>
    rw [rvbAfterInit_on true hf]
    exact ⟨_, rfl, toNat_ofNat_le (rvbLength_le _ _), toNat_ofNat_le (rvbLength2_le _),
      toNat_ofNat_le (rvbLength3_le _), toNat_ofNat_le (rvbLength4_le _)⟩
  | false =>
    rw [rvbAfterInit_off true hf]
    exact ⟨_, rfl, Nat.zero_le _, Nat.zero_le _, Nat.zero_le _, Nat.zero_le _⟩

/-- R123: with `reset = 1` the surround stage is cleared, with its size within the capacity. -/
theorem surAfterInit_reset (s : State) : ∃ h : Surround, surAfterInit true s = clearSur h ∧ h.size.toNat ≤ 2500 := by
  cases hf : flagSur s.flags with
  | true =>
    rw [surAfterInit_on true hf]
    exact ⟨_, rfl, toNat_ofNat_le (surLength_le _ _)⟩
  | false =>
    rw [surAfterInit_off true hf]
    exact ⟨_, rfl, Nat.zero_le _⟩

/-- R124: with `reset = 1` the bass stage is cleared, with a mask within the capacity. -/
theorem bassAfterInit_reset (s : State) : ∃ h : Bass, bassAfterInit true s = clearBass h ∧
    ∃ k, h.mask.toNat + 1 = 2 ^ k ∧ 2 ^ k ≤ bassRingCap := by
  cases hf : flagBass s.flags with
  | true =>
    rw [bassAfterInit_on true hf]
    exact ⟨_, rfl, maskOf_maskBound (bassWindow_le _ _)⟩
  | false =>
    rw [bassAfterInit_off true hf]
    exact ⟨_, rfl, zero_maskBound⟩

/-- R131, R38: from every state `INIT 1` clears every history and puts the machine within the bounds. -/
theorem initialise_reset_cleared (s : State) :
    HistoryCleared (initialise true s) ∧ (initialise true s).BoundsHold := by
  obtain ⟨hr, er, h1, h2, h3, h4⟩ := rvbAfterInit_reset s
  obtain ⟨hs, es, hsize⟩ := surAfterInit_reset s
  obtain ⟨hb, eb, hmask⟩ := bassAfterInit_reset s
  rw [initialise_eq, er, es, eb, State.boundsHold_iff]
  exact ⟨⟨clearRvb_cleared hr, clearSur_cleared hs, clearBass_cleared hb, rfl, rfl⟩,
    clearRvb_inBounds h1 h2 h3 h4, clearSur_inBounds hsize, clearBass_inBounds hmask⟩

/-! Silence: rings and sums of zeros, whatever the positions. -/

/-- A running-sum filter of zeros. -/
structure SumRing.Silent {w : Nat} (f : SumRing w) : Prop where
  mem : RingZero f.mem
  sum : f.sum = 0

/-- The reverb stage holds only zeros. -/
structure Reverb.Silent (h : Reverb) : Prop where
  rv1 : RingZero h.rv1.mem
  rv2 : RingZero h.rv2.mem
  rv3 : RingZero h.rv3.mem
  rv4 : RingZero h.rv4.mem
  rlf : h.rlf.Silent
  rld : RingZero h.rld.mem
  rlp : h.rlp.Silent

/-- The surround stage holds only zeros. -/
structure Surround.Silent (h : Surround) : Prop where
  sur : RingZero h.sur.mem
  dhf : h.dhf.Silent
  dlf : h.dlf.Silent
  dld : RingZero h.dld.mem

/-- The bass stage holds only zeros. -/
structure Bass.Silent (h : Bass) : Prop where
  bxr : h.bxr.Silent
  bxd : RingZero h.bxd.mem

/-- The four stages hold only zeros, and so do the first `n` pairs of both buffers. -/
structure State.Silent (n : Nat) (s : State) : Prop where
  rvb : s.rvb.Silent
  sur : s.sur.Silent
  bass : s.bass.Silent
  nr : NoiseCleared s.nr
  mix : ∀ j, j < 2 * n → mixWord s j = 0
  dry : ∀ j, j < 2 * n → dryWord s j = 0

theorem LineCleared.ringZero {w : Nat} {r : Ring w} (h : LineCleared r) : RingZero r.mem := h.1

theorem FilterCleared.silent {w : Nat} {f : SumRing w} (h : FilterCleared f) : f.Silent :=
  have ⟨hmem, _, hsum⟩ := h
  ⟨hmem, hsum⟩

theorem HistoryCleared.silent {n : Nat} {s : State} (h : HistoryCleared s)
    (hz : ∀ j, j < 2 * n → mixWord s j = 0 ∧ dryWord s j = 0) : s.Silent n := by
  obtain ⟨⟨rv1, rv2, rv3, rv4, rlf, rld, rlp⟩, ⟨sur, dhf, dlf, dld⟩, ⟨bxr, bxd⟩, hn⟩ := h
  exact
    { rvb := ⟨rv1.ringZero, rv2.ringZero, rv3.ringZero, rv4.ringZero, rlf.silent, rld.ringZero, rlp.silent⟩
      sur := ⟨sur.ringZero, dhf.silent, dlf.silent, dld.ringZero⟩
      bass := ⟨bxr.silent, bxd.ringZero⟩
      nr := hn
      mix := fun j hj => (hz j hj).1
      dry := fun j hj => (hz j hj).2 }

/-! The operations keep silence when they are fed zeros. -/

theorem asr_zero (n : Nat) : asr 0 n = 0 := BitVec.zero_sshiftRight

theorem RingZero.write {m : Memory} (h : RingZero m) (a : Nat) : RingZero (ringWrite m a 0) := by
  intro j
  rw [ringRead_ringWrite, h j, ite_self]

theorem SumRing.Silent.step {w : Nat} {f : SumRing w} (h : f.Silent) (m : Nat) : (sumStep m 0 f).Silent where
  mem := h.mem.write _
  sum := by simp [sumStep, h.sum, h.mem f.pos.toNat]

theorem RingZero.tap {w : Nat} {r : Ring w} (h : RingZero r.mem) : ringTap r = 0 := h _

theorem bassFeed_zero (k : Nat) : bassFeed 0 0 k = 0 := asr_zero k

/-- R141 on silence: every local is 0, so zeros are stored and the pair of zeros stays. -/
theorem rvbStep_silent {h : Reverb} (hs : h.Silent) :
    (rvbStep 0 0 0 0 h).1.Silent ∧ (rvbStep 0 0 0 0 h).2 = (0, 0) := by
  have hecho : ringTap h.rv1 + ringTap h.rv2 + ringTap h.rv3 + ringTap h.rv4 = 0 := by
    simp only [hs.rv1.tap, hs.rv2.tap, hs.rv3.tap, hs.rv4.tap, add_zero]
  have hechodly : ringTap h.rld - (sumStep 0x3F (asr 0 7) h.rlf).sum = 0 := by
    rw [hs.rld.tap, asr_zero, (hs.rlf.step _).sum, sub_self]
  have hv1 : asr (0 + 0) h.attn.toNat + asr 0 2 = 0 := by simp only [asr_zero, add_zero]
  have hv2 : asr (0 + asr 0 4) 1 = 0 := by simp only [asr_zero, add_zero]
  have hvlp : asr (sumStep 7 0 h.rlp).sum 2 = 0 := by rw [(hs.rlp.step 7).sum, asr_zero]
  rw [rvbStep_eq hecho hechodly hv1 hv2 hvlp]
  simp only [asr_zero]
  exact ⟨⟨hs.rv1.write _, hs.rv2.write _, hs.rv3.write _, hs.rv4.write _, hs.rlf.step _, hs.rld.write _,
    hs.rlp.step _⟩, rfl⟩

/-- `DOLBY_ROUND` rounds silence to 0 (R161). -/
theorem asr_dolbyRound : asr (BitVec.ofNat 32 config.dolbyRound) config.dolbyShift = 0 := by decide

/-- R161 on silence. -/
theorem surStep_silent {h : Surround} (hs : h.Silent) :
    (surStep 0 0 h).1.Silent ∧ (surStep 0 0 h).2 = (0, 0) := by
  have hv : ringTap h.dld - (sumStep 0x3F 0 h.dlf).sum = 0 := by rw [hs.dld.tap, (hs.dlf.step _).sum, sub_self]
  simp only [surStep, add_zero, zero_add, asr_dolbyRound, zero_mul, hs.sur.tap, asr_zero, hv,
    (hs.dhf.step _).sum, sub_zero]
  exact ⟨⟨hs.sur.write _, hs.dhf.step _, hs.dlf.step _, hs.dld.write _⟩, trivial⟩

/-- R181 on silence. -/
theorem bassStep_silent {h : Bass} (hs : h.Silent) : (bassStep 0 0 h).1.Silent ∧ (bassStep 0 0 h).2 = (0, 0) := by
  simp only [bassStep, bassFeed_zero, (hs.bxr.step _).sum, hs.bxd _, add_zero]
  exact ⟨⟨hs.bxr.step _, (hs.bxd.write _).write _⟩, trivial⟩

/-- R201 on silence. -/
theorem nrStep_silent {h : Noise} (hs : NoiseCleared h) :
    NoiseCleared (nrStep 0 0 h).1 ∧ (nrStep 0 0 h).2 = (0, 0) := by
  obtain ⟨hl, hr⟩ := hs
  simp only [nrStep, asr_zero, hl, hr, add_zero]
  exact ⟨⟨rfl, rfl⟩, trivial⟩

/-! A block keeps silence (R230). -/

section
variable {n : Nat} {s : State}

theorem State.Silent.setRvb (h : s.Silent n) {r : Reverb} (hr : r.Silent) : (s.setRvb r).Silent n :=
  ⟨hr, h.sur, h.bass, h.nr, h.mix, h.dry⟩

theorem State.Silent.setSur (h : s.Silent n) {u : Surround} (hu : u.Silent) : (s.setSur u).Silent n :=
  ⟨h.rvb, hu, h.bass, h.nr, h.mix, h.dry⟩

theorem State.Silent.setBass (h : s.Silent n) {b : Bass} (hb : b.Silent) : (s.setBass b).Silent n :=
  ⟨h.rvb, h.sur, hb, h.nr, h.mix, h.dry⟩

theorem State.Silent.setNr (h : s.Silent n) {m : Noise} (hm : NoiseCleared m) : (s.setNr m).Silent n :=
  ⟨h.rvb, h.sur, h.bass, hm, h.mix, h.dry⟩

/-- A pair of zeros written to `MIX` keeps the words of the block 0. -/
theorem State.Silent.writePair (h : s.Silent n) (i : Nat) :
    (writePair i 0 0 s).Silent n where
  rvb := h.rvb
  sur := h.sur
  bass := h.bass
  nr := h.nr
  mix j hj := by rw [mixWord_writePair, h.mix j hj, ite_self, ite_self]
  dry := h.dry

/-- The words of a pair of a silent block are 0. -/
theorem State.Silent.pair (h : s.Silent n) {i : Nat} (hi : i < n) :
    mixWord s (2 * i) = 0 ∧ mixWord s (2 * i + 1) = 0 ∧ dryWord s (2 * i) = 0 ∧ dryWord s (2 * i + 1) = 0 :=
  ⟨h.mix _ (by omega), h.mix _ (by omega), h.dry _ (by omega), h.dry _ (by omega)⟩

end

/-- R131: no step breaks the silence of a block. -/
theorem silent_kept (n : Nat) : KeptByStages n (State.Silent n) where
  rvb {i s t} hi h hs := by
    obtain ⟨hl, hr, hdl, hdr⟩ := hs.pair hi
    obtain ⟨hstage, hout⟩ := rvbStep_silent hs.rvb
    unfold rvbStepAt at h
    rw [hl, hr, hdl, hdr] at h
    split at h
    case isTrue =>
      cases h
      rw [hout]
      exact (hs.setRvb hstage).writePair i
    case isFalse => cases h
  sur {i s t} hi h hs := by
    obtain ⟨hl, hr, _, _⟩ := hs.pair hi
    obtain ⟨hstage, hout⟩ := surStep_silent hs.sur
    unfold surStepAt at h
    rw [hl, hr] at h
    split at h
    case isTrue =>
      cases h
      rw [hout]
      exact (hs.setSur hstage).writePair i
    case isFalse => cases h
  bass {i s t} hi h hs := by
    obtain ⟨hl, hr, _, _⟩ := hs.pair hi
    obtain ⟨hstage, hout⟩ := bassStep_silent hs.bass
    unfold bassStepAt at h
    rw [hl, hr] at h
    split at h
    case isTrue =>
      cases h
      rw [hout]
      exact (hs.setBass hstage).writePair i
    case isFalse => cases h
  nr {i s t} hi h hs := by
    obtain ⟨hl, hr, _, _⟩ := hs.pair hi
    obtain ⟨hstage, hout⟩ := nrStep_silent hs.nr
    unfold nrStepAt at h
    rw [hl, hr] at h
    cases h
    rw [hout]
    exact (hs.setNr hstage).writePair i

/-- Settles O31: `INIT 1` gives a cleared state within the bounds, where a block completes, and silence is kept. -/
theorem initOneClearsHistoryAndZeroStaysZero : Obligations.InitOneClearsHistoryAndZeroStaysZero := by
  intro s n hn hz
  obtain ⟨hcleared, hbounds⟩ := initialise_reset_cleared s
  have hsilent : (initialise true s).Silent n := by
    refine hcleared.silent fun j hj => ?_
    rw [initialise_eq]
    exact hz j hj
  obtain ⟨u, hu⟩ := exec_completes (.proc n) hbounds
  have hsu : u.Silent n := procBlock_keeps (silent_kept n) ((exec_proc_eq_next_iff hn _ u).1 hu) hsilent
  obtain ⟨hr, hs, hb, hnr, hmix, _⟩ := hsu
  exact ⟨_, u, exec_init 1 s, hcleared, hu, hmix, hr.rv1, hr.rv2, hr.rv3, hr.rv4, hr.rlf.mem, hr.rld, hr.rlp.mem,
    hr.rlf.sum, hr.rlp.sum, hs.sur, hs.dhf.mem, hs.dlf.mem, hs.dld, hs.dhf.sum, hs.dlf.sum, hb.bxr.mem, hb.bxd,
    hb.bxr.sum, hnr⟩

end Sys2Proof.Machine

/-! PROOF. A block with one stage enabled, pair by pair (R142, R230); a stage that does not read `DRY` (R143, R276). -/

namespace Sys2Proof.Machine

/-! The last pair of a block of one stage. -/

/-- R231: a disabled stage does nothing. -/
theorem runStage_false (n : Nat) (step : Nat → State → Option State) : runStage false n step = some := rfl

/-- R142, R230: with reverb alone enabled, a block is the loop of `RVB.STEP`. -/
theorem procBlock_rvb_only (n : Nat) (s : State) : procBlock 1 n s = forPairs n rvbStepAt s := by
  obtain ⟨hrvb, hsur, hbass, hnr⟩ : flagRvb 1 = true ∧ flagSur 1 = false ∧ flagBass 1 = false ∧ flagNr 1 = false := by
    decide
  simp only [procBlock, hrvb, hsur, hbass, hnr, runStage_false, Option.bind_fun_some]
  rfl

/-- R232: where a block is the loop of one stage's step, the block of one pair more is the shorter block and then one
step. -/
theorem exec_proc_succ_of_forPairs {step : Nat → State → Option State} {i : Nat} {s t : State}
    (hb : ∀ n, procBlock s.flags n s = forPairs n step s) (hi : i < 512) (h : exec (.proc (i + 1)) s = .next t) :
    ∃ u, exec (.proc i) s = .next u ∧ step i u = some t := by
  rw [exec_proc_eq_next_iff hi, hb] at h
  obtain ⟨u, hu, hut⟩ := Option.bind_eq_some_iff.1 h
  exact ⟨u, (exec_proc_eq_next_iff hi.le s u).2 ((hb i).trans hu), hut⟩

/-- Settles O35: the last pair of the longer block is one `RVB.STEP` on the shorter block's state. -/
theorem reverbBlockRunsReverbSteps : Obligations.ReverbBlockRunsReverbSteps := by
  intro s i hbounds hflags hi
  obtain ⟨t, ht⟩ := exec_completes (.proc (i + 1)) hbounds
  have hloop : ∀ n, procBlock s.flags n s = forPairs n rvbStepAt s := fun n => hflags ▸ procBlock_rvb_only n s
  obtain ⟨u, hu, hstep⟩ := exec_proc_succ_of_forPairs hloop hi ht
  exact ⟨u, t, hu, ht, (rvbStepAt_spec hstep).2⟩

/-! Other contents of `DRY` pass through every stage but reverb. -/

/-- A stage's step does the same under any other `DRY`, and leaves it. -/
def IgnoresDry (step : Nat → State → Option State) : Prop :=
  ∀ (i : Nat) (s : State) (m : Memory), step i (s.setDry m) = (step i s).map (State.setDry m)

theorem surStepAt_ignoresDry : IgnoresDry surStepAt := by
  intro i s m
  unfold surStepAt
  rw [State.setDry_sur, apply_ite (Option.map (State.setDry m))]
  rfl

theorem bassStepAt_ignoresDry : IgnoresDry bassStepAt := by
  intro i s m
  unfold bassStepAt
  rw [State.setDry_bass, apply_ite (Option.map (State.setDry m))]
  rfl

theorem nrStepAt_ignoresDry : IgnoresDry nrStepAt := fun _ _ _ => rfl

theorem IgnoresDry.runStage {step : Nat → State → Option State} (hd : IgnoresDry step) {b : Bool} {n : Nat}
    {s t : State} (h : runStage b n step s = some t) (m : Memory) :
    runStage b n step (s.setDry m) = some (t.setDry m) := by
  obtain ⟨_, ht, rfl⟩ := runStage_simulated (R := fun u u' => u' = u.setDry m)
    (fun {_ _ _ v} _ hu hv => ⟨v.setDry m, by rw [hu, hd, hv, Option.map_some], rfl⟩) h rfl
  exact ht

/-- R143: with reverb disabled a block does the same under any other `DRY`. -/
theorem procBlock_setDry {f : BitVec 4} {n : Nat} {s t : State} (hf : flagRvb f = false)
    (h : procBlock f n s = some t) (m : Memory) : procBlock f n (s.setDry m) = some (t.setDry m) := by
  obtain ⟨s1, s2, s3, h1, h2, h3, h4⟩ := procBlock_cases h
  obtain rfl : s1 = s := runStage_disabled hf h1
  have h1' : runStage (flagRvb f) n rvbStepAt (s1.setDry m) = some (s1.setDry m) := by
    rw [hf, runStage_false]
  simp only [procBlock, h1', surStepAt_ignoresDry.runStage h2, bassStepAt_ignoresDry.runStage h3,
    nrStepAt_ignoresDry.runStage h4, Option.bind_some]

/-- Settles O46: a count above the capacity faults whatever `DRY` holds; else the block's stages ignore `DRY`. -/
theorem disabledReverbIgnoresDry : Obligations.DisabledReverbIgnoresDry := by
  intro s t m n hf h
  by_cases hn : n ≤ 512
  case pos =>
    have hblock := procBlock_setDry hf ((exec_proc_eq_next_iff hn s t).1 h) m
    exact (exec_proc_eq_next_iff hn (s.setDry m) (t.setDry m)).2 hblock
  case neg =>
    have hover : n > config.blockCapacity := not_le.1 hn
    have hfault : ∀ u : State, exec (.proc n) u = .next (raise .capacityViolation (encode (.proc n)) u) :=
      fun _ => if_pos hover
    rw [hfault] at h ⊢
    cases h
    rfl

end Sys2Proof.Machine

/-! PROOF. A block with surround alone enabled, pair by pair (R161, R162), and the mono sums it keeps (R161 (d)). -/

namespace Sys2Proof.Machine

/-! The last pair of a block of the surround stage. -/

/-- R162, R230: with surround alone enabled, a block is the loop of `SUR.STEP`. -/
theorem procBlock_sur_only (n : Nat) (s : State) : procBlock 2 n s = forPairs n surStepAt s := by
  obtain ⟨hrvb, hsur, hbass, hnr⟩ : flagRvb 2 = false ∧ flagSur 2 = true ∧ flagBass 2 = false ∧ flagNr 2 = false := by
    decide
  simp only [procBlock, hrvb, hsur, hbass, hnr, runStage_false, Option.bind_fun_some, Option.bind_some]
  rfl

/-- Settles O36: the last pair of the longer block is one `SUR.STEP` on the shorter block's state. -/
theorem surroundBlockRunsSurroundSteps : Obligations.SurroundBlockRunsSurroundSteps := by
  intro s i hbounds hflags hi
  have hloop (n : Nat) : procBlock s.flags n s = forPairs n surStepAt s := hflags ▸ procBlock_sur_only n s
  obtain ⟨t, ht⟩ := exec_completes (.proc (i + 1)) hbounds
  obtain ⟨u, hu, hstep⟩ := exec_proc_succ_of_forPairs hloop hi ht
  obtain ⟨-, hspec⟩ := surStepAt_spec hstep
  exact ⟨u, t, hu, ht, hspec⟩

/-! The mono sums of the pairs. -/

/-- Every pair of `t` has the wrapped sum of left and right that it has in `s`. -/
def SameMonoSums (s t : State) : Prop :=
  ∀ i, mixWord t (2 * i) + mixWord t (2 * i + 1) = mixWord s (2 * i) + mixWord s (2 * i + 1)

/-- A pair written with the sum it had changes no pair's sum. -/
theorem PairWritten.sameMonoSums {i : Nat} {l r : Word} {s t : State} (h : PairWritten i l r s t)
    (hsum : l + r = mixWord s (2 * i) + mixWord s (2 * i + 1)) : SameMonoSums s t := by
  intro j
  rw [h (2 * j), h (2 * j + 1)]
  by_cases hj : j = i
  case pos => simpa [hj] using hsum
  case neg =>
    have hleft : 2 * j ≠ 2 * i ∧ 2 * j ≠ 2 * i + 1 := by omega
    have hright : 2 * j + 1 ≠ 2 * i ∧ 2 * j + 1 ≠ 2 * i + 1 := by omega
    simp only [hleft, hright, if_false]

/-- R161 (d): what is added on the left is subtracted on the right. -/
theorem wrap32_add_sub_cancel (l r : Word) (v : Int) : wrap32 (l.toInt + v) + wrap32 (r.toInt - v) = l + r := by
  rw [← wrap32_add, add_eq_wrap32 l r]
  congr 1
  omega

/-- R161 (d): `SUR.STEP` keeps every pair's mono sum. -/
theorem surStepAt_sameMonoSums {i : Nat} {s t : State} (h : surStepAt i s = some t) : SameMonoSums s t := by
  obtain ⟨-, hpair, -⟩ := surStepAt_spec h
  exact hpair.sameMonoSums (wrap32_add_sub_cancel _ _ _)

/-- Settles O43: the block is the loop of `SUR.STEP`, and each step keeps the mono sums. -/
theorem surroundKeepsMonoSum : Obligations.SurroundKeepsMonoSum := by
  intro s count hbounds hflags hcount
  obtain ⟨t, ht⟩ := exec_completes (.proc count) hbounds
  have hloop : forPairs count surStepAt s = some t := by
    rw [← procBlock_sur_only, ← hflags]
    exact (exec_proc_eq_next_iff hcount s t).1 ht
  have hkeep : SameMonoSums s t :=
    forPairs_keeps (P := SameMonoSums s) (fun _ hstep hs j => (surStepAt_sameMonoSums hstep j).trans (hs j)) hloop
      fun _ => rfl
  exact ⟨t, ht, fun i _ => hkeep i⟩

end Sys2Proof.Machine

/-! PROOF. The bass stage: its feed rounds toward zero (R181 (a)), and a block with bass alone enabled, pair by pair
(R181, R182). -/

namespace Sys2Proof.Machine

/-! The feed as a division that truncates toward zero. -/

/-- Truncating a negative dividend is the floor of the dividend with the bias `d - 1`. -/
theorem tdiv_eq_biased_ediv_of_neg {a d : Int} (ha : a < 0) (hd : 0 < d) : a.tdiv d = (a + (d - 1)) / d := by
  have hquot : a.tdiv d = -(-a / d) := by
    rw [← Int.tdiv_eq_ediv_of_nonneg (Int.neg_nonneg.2 ha.le), Int.neg_tdiv, neg_neg]
  have hlow : -a / d * d ≤ -a := Int.ediv_mul_le _ hd.ne'
  have hhigh : -a - d < -a / d * d := Int.lt_ediv_mul _ hd
  rw [hquot, eq_comm, Int.ediv_eq_iff_of_pos hd, Int.neg_mul]
  omega

/-- R181 (a): the bias makes the floor of a negative sum a truncation; any other sum needs none. -/
theorem bassTmp_eq_tdiv (t0 : Int) (k : Nat) : bassTmp t0 k = t0.tdiv (2 ^ k) := by
  unfold bassTmp
  by_cases hneg : t0 < 0
  case pos => rw [if_pos hneg, tdiv_eq_biased_ediv_of_neg hneg (by positivity)]
  case neg => rw [if_neg hneg, Int.tdiv_eq_ediv_of_nonneg (not_lt.1 hneg)]

/-- R10: a word divided toward zero needs no wrapping: it is no larger than the word, and `2^31` from `-2^31` would take a
negative divisor. -/
theorem wrap32_tdiv_toInt (x : Word) {d : Int} (hd : 0 < d) : (wrap32 (x.toInt.tdiv d)).toInt = x.toInt.tdiv d := by
  have hsize : (x.toInt.tdiv d).natAbs ≤ x.toInt.natAbs := Int.natAbs_tdiv_le_natAbs _ _
  have hsign : 0 ≤ -x.toInt → 0 ≤ -x.toInt.tdiv d := fun hx => Int.neg_tdiv _ _ ▸ Int.tdiv_nonneg hx hd.le
  have hlow := x.le_toInt
  have hhigh := x.toInt_lt
  rw [wrap32_toInt, Int.bmod_eq_of_le] <;> omega

/-- Settles O44: the feed is the wrap of R181's integer value, which truncates and fits a word. -/
theorem bassFeedRoundsTowardZero : Obligations.BassFeedRoundsTowardZero := by
  intro l r k hk
  rw [bassFeed_eq l r hk, bassTmp_eq_tdiv, ← add_eq_wrap32, wrap32_tdiv_toInt _ (by positivity)]

/-! The last pair of a block of the bass stage. -/

/-- R182, R230: with bass alone enabled, a block is the loop of `BASS.STEP`; the disabled stages reduce away. -/
theorem procBlock_bass_only (n : Nat) (s : State) : procBlock 4 n s = forPairs n bassStepAt s :=
  Option.bind_fun_some (forPairs n bassStepAt s)

/-- Settles O37: the last pair of the longer block is one `BASS.STEP` on the shorter block's state. -/
theorem bassBlockRunsBassSteps : Obligations.BassBlockRunsBassSteps := by
  intro s i hbounds hflags hi
  have hloop (n : Nat) : procBlock s.flags n s = forPairs n bassStepAt s := hflags ▸ procBlock_bass_only n s
  obtain ⟨t, ht⟩ := exec_completes (.proc (i + 1)) hbounds
  obtain ⟨u, hu, hstep⟩ := exec_proc_succ_of_forPairs hloop hi ht
  exact ⟨u, t, hu, ht, (bassStepAt_spec hstep).2⟩

end Sys2Proof.Machine

/-! PROOF. A block with noise reduction alone enabled: pair by pair (R201, R202), and as the two-tap average of R200, with
no wrap (R201 (b)). -/

namespace Sys2Proof.Machine

/-! The last pair of a block of the noise-reduction stage. -/

/-- R202, R230: with noise reduction alone enabled, a block is the loop of `NR.STEP`; the disabled stages reduce away. -/
theorem procBlock_nr_only (n : Nat) (s : State) : procBlock 8 n s = forPairs n nrStepAt s := rfl

/-- R201, R202: with noise reduction alone enabled every legal block completes, from any state: `NR.STEP` never stops. -/
theorem exec_proc_nr_only_completes {s : State} {n : Nat} (hflags : s.flags = 8) (hn : n ≤ 512) :
    ∃ t, exec (.proc n) s = .next t ∧ forPairs n nrStepAt s = some t := by
  obtain ⟨t, ht⟩ := forPairs_isSome (P := fun _ => True) (n := n) (fun _ _ _ => trivial)
    (fun _ => nrStepAt_isSome _ _) (s := s) trivial
  exact ⟨t, (exec_proc_eq_next_iff hn s t).2 (hflags ▸ ht), ht⟩

/-- Settles O38: the last pair of the longer block is one `NR.STEP` on the shorter block's state. -/
theorem noiseBlockRunsNoiseSteps : Obligations.NoiseBlockRunsNoiseSteps := by
  intro s i hflags hi
  have hloop (n : Nat) : procBlock s.flags n s = forPairs n nrStepAt s := hflags ▸ procBlock_nr_only n s
  obtain ⟨t, ht, -⟩ := exec_proc_nr_only_completes (n := i + 1) hflags hi
  obtain ⟨u, hu, hstep⟩ := exec_proc_succ_of_forPairs hloop hi ht
  exact ⟨u, t, hu, ht, nrStepAt_spec hstep⟩

/-! One channel of the stage, as integers: `x` the channel's words before the block and `a` its scalar, `y` and `b` the
same after it. -/

/-- R200: the half that pair `i` adds: the scalar for the first pair, half the input before it for any other. -/
def carriedHalf (x : Nat → Word) (a : Word) (i : Nat) : Int :=
  if i = 0 then a.toInt else (x (i - 1)).toInt / 2

theorem carriedHalf_succ (x : Nat → Word) (a : Word) (i : Nat) :
    carriedHalf x a (i + 1) = (x i).toInt / 2 := rfl

/-- R200: the first `n` samples are averaged exactly, those from `n` on are still the input, and the scalar holds the half
that sample `n` is to add. -/
structure TwoTapAveraged (n : Nat) (x y : Nat → Word) (a b : Word) : Prop where
  output : ∀ i, i < n → (y i).toInt = (x i).toInt / 2 + carriedHalf x a i
  input : ∀ i, n ≤ i → y i = x i
  carry : b.toInt = carriedHalf x a n

theorem twoTapAveraged_zero (x : Nat → Word) (a : Word) : TwoTapAveraged 0 x x a a where
  output _ hi := absurd hi (Nat.not_lt_zero _)
  input _ _ := rfl
  carry := rfl

/-- R201: half of a word is a word. -/
theorem wrap32_half_toInt (w : Word) : (wrap32 (w.toInt / 2)).toInt = w.toInt / 2 := by
  have hhalf := asr_eq_wrap32 w 1
  rw [pow_one] at hhalf
  rw [← hhalf, asr_toInt, pow_one]

/-- R201 (b): half of a word and a number as small as such a half add without a wrap. -/
theorem wrap32_half_add_toInt (w : Word) {c : Int} (hc : -1073741824 ≤ c ∧ c < 1073741824) :
    (wrap32 (w.toInt / 2 + c)).toInt = w.toInt / 2 + c := by
  have hlow := w.le_toInt
  have hhigh := w.toInt_lt
  rw [wrap32_toInt, Int.bmod_eq_of_le] <;> omega

/-- R201: a channel's half of `NR.STEP(n)` averages sample `n` too; the scalar is small enough for the exact sum. -/
theorem TwoTapAveraged.step {n : Nat} {x y y' : Nat → Word} {a b : Word} (h : TwoTapAveraged n x y a b)
    (hb : -1073741824 ≤ b.toInt ∧ b.toInt < 1073741824)
    (hy : ∀ i, y' i = if i = n then wrap32 ((y n).toInt / 2 + b.toInt) else y i) :
    TwoTapAveraged (n + 1) x y' a (wrap32 ((y n).toInt / 2)) := by
  have hyn : y n = x n := h.input n le_rfl
  refine ⟨fun i hi => ?output, fun i hi => ?input, ?carry⟩
  case output =>
    obtain hlt | rfl := Nat.lt_succ_iff_lt_or_eq.1 hi
    · rw [hy, if_neg hlt.ne, h.output i hlt]
    · rw [hy, if_pos rfl, wrap32_half_add_toInt _ hb, hyn, h.carry]
  case input => rw [hy, if_neg (Nat.ne_of_gt hi), h.input i (Nat.le_of_succ_le hi)]
  case carry => rw [wrap32_half_toInt, hyn, carriedHalf_succ]

/-! Both channels of the machine. -/

/-- The left words of the pairs of `MIX`. -/
def leftWord (s : State) (i : Nat) : Word := mixWord s (2 * i)

/-- The right words of the pairs of `MIX`. -/
def rightWord (s : State) (i : Nat) : Word := mixWord s (2 * i + 1)

theorem PairWritten.leftWord_eq {i : Nat} {l r : Word} {s t : State} (h : PairWritten i l r s t) (j : Nat) :
    leftWord t j = if j = i then l else leftWord s j := by
  have hindex : 2 * j = 2 * i ↔ j = i := by omega
  have hparity : 2 * j ≠ 2 * i + 1 := by omega
  simp only [leftWord, h (2 * j), hindex, hparity, if_false]

theorem PairWritten.rightWord_eq {i : Nat} {l r : Word} {s t : State} (h : PairWritten i l r s t) (j : Nat) :
    rightWord t j = if j = i then r else rightWord s j := by
  have hindex : 2 * j + 1 = 2 * i + 1 ↔ j = i := by omega
  have hparity : 2 * j + 1 ≠ 2 * i := by omega
  simp only [rightWord, h (2 * j + 1), hindex, hparity, if_false]

/-- Both channels of `MIX` are averaged from `s` to `t` on the pairs below `n`. -/
structure BlockAveraged (n : Nat) (s t : State) : Prop where
  left : TwoTapAveraged n (leftWord s) (leftWord t) s.nr.left t.nr.left
  right : TwoTapAveraged n (rightWord s) (rightWord t) s.nr.right t.nr.right

/-- R201: `NR.STEP(n)` takes the average one pair further. -/
theorem BlockAveraged.step {n : Nat} {s u t : State} (h : BlockAveraged n s u) (hu : u.NoiseHalved)
    (hstep : NoiseStepped n u t) : BlockAveraged (n + 1) s t := by
  obtain ⟨hpair, hleft, hright, -⟩ := hstep
  simp only [pow_one] at hpair hleft hright
  constructor
  case left => exact hleft ▸ h.left.step hu.left hpair.leftWord_eq
  case right => exact hright ▸ h.right.step hu.right hpair.rightWord_eq

/-- R200, R202: the loop of `NR.STEP` averages every pair; each step meets scalars that are halves (R201 (b)). -/
theorem forPairs_nrStepAt_blockAveraged {n : Nat} {s t : State} (hs : s.NoiseHalved)
    (h : forPairs n nrStepAt s = some t) : BlockAveraged n s t := by
  induction n generalizing t with
  | zero =>
    cases h
    exact ⟨twoTapAveraged_zero _ _, twoTapAveraged_zero _ _⟩
  | succ n ih =>
    obtain ⟨u, hu, hstep⟩ := Option.bind_eq_some_iff.1 h
    have hhalved : u.NoiseHalved := forPairs_keeps (P := State.NoiseHalved) (noiseHalved_kept n).nr hu hs
    exact (ih hu).step hhalved (nrStepAt_spec hstep)

/-- Settles O42: the block is the loop of `NR.STEP`, and the loop averages both channels. -/
theorem noiseReductionIsTwoTapAverage : Obligations.NoiseReductionIsTwoTapAverage := by
  intro s count hhalved hflags hcount
  obtain ⟨t, ht, hloop⟩ := exec_proc_nr_only_completes hflags hcount
  obtain ⟨hleft, hright⟩ := forPairs_nrStepAt_blockAveraged hhalved hloop
  exact ⟨t, ht, fun i hi => ⟨hleft.output i hi, hright.output i hi⟩, hleft.carry, hright.carry⟩

end Sys2Proof.Machine

/-! PROOF. The parameter setters (R210 to R214, R218): each completes in every state, its translated values fit its
registers, and nothing else changes. -/

namespace Sys2Proof.Machine

/-! The state each setter answers, with no condition on the operands or the state (R210). -/

theorem exec_setrvb (depth delayMs : Nat) (s : State) :
    exec (.setrvb depth delayMs) s =
      .next (s.setRvbParams (BitVec.ofNat 3 (rvbDepthOf depth)) (BitVec.ofNat 8 (rvbDelayOf delayMs))) := rfl

theorem exec_setbass (depth rangeHz : Nat) (s : State) :
    exec (.setbass depth rangeHz) s =
      .next (s.setBassParams (BitVec.ofNat 4 (bassDepthOf depth)) (BitVec.ofNat 5 (bassRangeOf rangeHz))) := rfl

theorem exec_setsur (depth delayMs : Nat) (s : State) :
    exec (.setsur depth delayMs) s =
      .next (s.setSurParams (BitVec.ofNat 5 (surDepthOf depth)) (BitVec.ofNat 6 (surDelayOf delayMs))) := rfl

theorem exec_setrate (rate : Nat) (s : State) :
    exec (.setrate rate) s = .next (s.setRate (BitVec.ofNat 20 rate)) := rfl

/-! A translated value fits its register, whatever the operand: the clamp's upper end does. -/

theorem toNat_ofNat_clamp {w hi : Nat} (hw : hi < 2 ^ w) (x lo : Nat) :
    (BitVec.ofNat w (clamp x lo hi)).toNat = min (max x lo) hi :=
  toNat_ofNat_of_lt ((min_le_right _ _).trans_lt hw)

/-- R211, R212: a depth register counts down from `top` by the gain. -/
theorem toNat_ofNat_sub_gainOf {w top : Nat} (hw : top < 2 ^ w) (depth : Nat) :
    (BitVec.ofNat w (top - gainOf depth)).toNat = top - min (depth / 20) 4 :=
  toNat_ofNat_of_lt ((Nat.sub_le _ _).trans_lt hw)

/-! `BASSRANGE` (R213). -/

/-- R213's closed form: the offset-and-subtraction branch of `bassRange` is a truncated subtraction. -/
theorem bassRangeOf_eq (rangeHz : Nat) : bassRangeOf rangeHz = 21 - min (rangeHz / 5 - 5) 5 := by
  have hoffset : (if rangeHz / 5 > 5 then rangeHz / 5 - 5 else 0) = rangeHz / 5 - 5 := by
    split
    case isTrue => rfl
    case isFalse h => exact (Nat.sub_eq_zero_of_le (Nat.not_lt.1 h)).symm
  exact congrArg (fun q => 21 - min q 5) hoffset

/-- R213 as a table: one step down every 5 Hz from 30 Hz on, until 16. -/
theorem bassRangeOf_eq_table (rangeHz : Nat) :
    bassRangeOf rangeHz =
      if rangeHz < 30 then 21 else if rangeHz < 35 then 20 else if rangeHz < 40 then 19 else if rangeHz < 45 then 18
      else if rangeHz < 50 then 17 else 16 := by
  rw [bassRangeOf_eq]
  split_ifs <;> omega

theorem bassRangeOf_lt (rangeHz : Nat) : bassRangeOf rangeHz < 2 ^ 5 := by
  rw [bassRangeOf_eq]
  omega

/-! The statements. In each the frame holds by definition of the setter's one write (`setRvbParams` and its kin). -/

/-- Settles O17: the translated depth and the clamped delay fit the two registers `SETRVB` writes. -/
theorem setrvbTranslatesAndClamps : Obligations.SetrvbTranslatesAndClamps := by
  intro depth delayMs s _ _
  exact ⟨_, exec_setrvb depth delayMs s, toNat_ofNat_sub_gainOf (by decide) depth,
    toNat_ofNat_clamp (by decide) delayMs 40, rfl⟩

/-- Settles O18: as O17, with the range read from R213's table. -/
theorem setbassTranslatesAndClamps : Obligations.SetbassTranslatesAndClamps := by
  intro depth rangeHz s _ _
  exact ⟨_, exec_setbass depth rangeHz s, toNat_ofNat_sub_gainOf (by decide) depth,
    (toNat_ofNat_of_lt (bassRangeOf_lt rangeHz)).trans (bassRangeOf_eq_table rangeHz), rfl⟩

/-- Settles O19: both values `SETSUR` writes are clamped to what their registers hold. -/
theorem setsurTranslatesAndClamps : Obligations.SetsurTranslatesAndClamps := by
  intro depth delayMs s _ _
  exact ⟨_, exec_setsur depth delayMs s, toNat_ofNat_clamp (by decide) (depth * 16 / 100) 1,
    toNat_ofNat_clamp (by decide) delayMs 4, rfl⟩

/-- Settles O20: the operand has the width of `RATE`, so it is stored as it is. -/
theorem setrateStoresRate : Obligations.SetrateStoresRate := by
  intro rate s hrate
  exact ⟨_, exec_setrate rate s, toNat_ofNat_of_lt hrate, rfl⟩

end Sys2Proof.Machine

/-! PROOF. The hard reset (R270), the idle core (R260), the faulted state (R255, R258) and the list of faults (R250). -/

namespace Sys2Proof.Machine

/-- Settles O8: a step with nothing issued is the first of the two cases of a step. -/
theorem idleCoreHoldsState : Obligations.IdleCoreHoldsState := by
  intro s hp
  rcases step_cases s with ⟨_, e⟩ | ⟨_, _, hcons, _⟩
  · exact e
  · cases hp.symm.trans hcons

/-! The hard reset (R270). -/

theorem reset_historyCleared : HistoryCleared State.reset :=
  ⟨⟨lineCleared_cleared, lineCleared_cleared, lineCleared_cleared, lineCleared_cleared, filterCleared_cleared,
      lineCleared_cleared, filterCleared_cleared⟩,
    ⟨lineCleared_cleared, filterCleared_cleared, filterCleared_cleared, lineCleared_cleared⟩,
    ⟨filterCleared_cleared, lineCleared_cleared⟩, rfl, rfl⟩

theorem reset_hardResetValues : HardResetValues State.reset :=
  ⟨rfl, rfl, rfl, rfl, rfl, rfl, rfl, rfl, rfl, rfl, rfl, rfl, rfl, rfl, rfl, rfl, rfl, rfl, rfl, rfl, rfl,
    reset_historyCleared⟩

/-- A hard reset gives the state after reset, but for the epoch of the buffers and the port (logs 3 and 4). -/
theorem hardReset_hardResetValues (s : State) : HardResetValues (hardReset s) := reset_hardResetValues

theorem step_hardReset {s : State} {rest : List HostAction} (hp : s.port = .hardReset :: rest) :
    step s = .next (hardReset (taken rest s)) := step_cons hp

/-- Settles O13: the values of R270's table are those `State.reset` is made of. -/
theorem machineStartsAtResetValues : Obligations.MachineStartsAtResetValues := reset_hardResetValues

/-! The faulted state (R255): whatever the action, only the port and the reply change. -/

section
variable {s : State} {rest : List HostAction}

theorem step_command_faulted {w : Word} (hf : s.fault = true) (hp : s.port = .command w :: rest) :
    step s = .next { s with port := rest, reply := none } := by
  rw [step_cons hp]
  exact if_pos hf

theorem step_write_faulted {space : BitVec 2} {addr : BitVec 20} {v : Word} (hf : s.fault = true)
    (hp : s.port = .hostWrite space addr v :: rest) : step s = .next { s with port := rest, reply := none } := by
  rw [step_cons hp]
  exact congrArg Host.Outcome.next (if_pos hf)

theorem step_read_rejected_faulted {space : BitVec 2} {addr : BitVec 20} (hf : s.fault = true)
    (hp : s.port = .hostRead space addr :: rest) (h : ¬ReadAccepted space addr) :
    step s = .next { s with port := rest, reply := some 0 } := by
  rw [step_cons hp, perform, hostRead, spaceRead_rejected _ h]
  exact congrArg Host.Outcome.next (if_pos hf)

/-- R255: in the faulted state every action but the hard reset completes and changes the port and the reply alone. -/
theorem step_faulted {a : HostAction} (hf : s.fault = true) (hp : s.port = a :: rest) (ha : a ≠ .hardReset) :
    ∃ r, step s = .next { s with port := rest, reply := r } := by
  cases a with
  | hardReset => exact absurd rfl ha
  | command w => exact ⟨none, step_command_faulted hf hp⟩
  | hostWrite space addr v => exact ⟨none, step_write_faulted hf hp⟩
  | hostRead space addr =>
    by_cases hacc : ReadAccepted space addr
    · obtain ⟨v, _, hstep⟩ := step_read_accepted hp hacc
      exact ⟨some v, hstep⟩
    · exact ⟨some 0, step_read_rejected_faulted hf hp hacc⟩

end

/-- Settles O9: the four kinds of step in the faulted state; an accepted read is served there as in any other state. -/
theorem faultedStateOnlyServesReads : Obligations.FaultedStateOnlyServesReads := fun _ _ hf =>
  ⟨fun _ hp => step_command_faulted hf hp, fun _ _ _ hp => step_write_faulted hf hp,
    fun _ _ hp hacc => step_read_accepted hp hacc, fun _ _ hp hrej => step_read_rejected_faulted hf hp hrej⟩

/-- Settles O10: the hard reset gives the cleared state after reset, any other action touches the port and the reply. -/
theorem onlyHardResetLeavesTheFaultedState : Obligations.OnlyHardResetLeavesTheFaultedState := by
  intro s a rest hf hp
  by_cases ha : a = .hardReset
  · subst ha
    exact ⟨_, step_hardReset hp, fun hne => absurd rfl hne, fun _ => ⟨rfl, reset_historyCleared⟩⟩
  · obtain ⟨r, hstep⟩ := step_faulted hf hp ha
    exact ⟨_, hstep, fun _ => ⟨hf, rfl, rfl, rfl, rfl, rfl, rfl⟩, fun he => absurd he ha⟩

/-- Settles O12: the state after a hard reset meets the table and both invariants; `step_faulted` covers the rest. -/
theorem hardResetRestoresResetValues : Obligations.HardResetRestoresResetValues := by
  refine fun s rest => ⟨fun hp => ?reset, fun a t hf hp ha h => ?other⟩
  case reset =>
    exact ⟨_, step_hardReset hp, hardReset_hardResetValues _, keptByActions_sumsHold.reset _, hardReset_boundsHold _⟩
  case other =>
    obtain ⟨r, hstep⟩ := step_faulted hf hp ha
    cases hstep.symm.trans h
    exact hf

/-! The list of faults (R250). -/

/-- The list of faults has one row for the action: cause `c` with information `x`. -/
def RaisesOnly (a : HostAction) (c : Cause) (x : Word) : Prop :=
  ∀ k info, RaisesFault a k info ↔ k = c.code.toNat ∧ info = x.toNat

/-- What an action does outside the faulted state, as far as faults go: it enters the fault of its row in the list, on
the state with the action taken and the reply of a faulting read set, or it has no row and the state is not faulted. -/
def FaultsAsListed (a : HostAction) (rest : List HostAction) (s t : State) : Prop :=
  (∃ c x, RaisesOnly a c x ∧ t = raise c x { s with port := rest, reply := if a.isRead then some 0 else none }) ∨
    ((∀ k info, ¬RaisesFault a k info) ∧ t.fault = false)

/-- R253: the information of a rejected access is the space above the 20 bits of the address. -/
theorem accessInfo_toNat (space : BitVec 2) (addr : BitVec 20) :
    (accessInfo space addr).toNat = space.toNat * 2 ^ 20 + addr.toNat := by
  have hspace := space.isLt
  have haddr := addr.isLt
  rw [accessInfo, Nat.shiftLeft_eq, or_eq_add haddr]
  exact toNat_ofNat_word (by omega)

theorem bits_opcode_of_decode {w : Word} {i : Instr} (h : decode w = .ok i) : bits w 31 28 = i.opcode :=
  ((row_matches_iff w i).1 (row_matches_of_decode h)).1

theorem not_illegalWord_of_decode {w : Word} {i : Instr} (h : decode w = .ok i) : ¬IllegalWord w := by
  intro hw
  obtain ⟨e, he⟩ := (decode_eq_error_iff_illegalWord w).2 hw
  cases he.symm.trans h

theorem bits_count_of_decode {w : Word} {n : Nat} (h : decode w = .ok (.proc n)) : bits w 15 0 = n :=
  Instr.proc.inj ((decode_eq_ok_iff w _).1 h).2

/-- `PROC` is the command of opcode 2 (R82). -/
theorem eq_proc_of_opcode {i : Instr} (h : i.opcode = 2) : ∃ n, i = .proc n := by
  cases i with
  | proc n => exact ⟨n, rfl⟩
  | init _ | setrvb _ _ | setbass _ _ | setsur _ _ | setcfg _ | setrate _ => cases h

/-! The rows of the list, action by action. -/

theorem raisesOnly_of_illegalWord {w : Word} (h : IllegalWord w) :
    RaisesOnly (.command w) .illegalCommand w := by
  intro k info
  simp [RaisesFault, h, Cause.code]

theorem raisesOnly_of_proc {w : Word} {n : Nat} (h : decode w = .ok (.proc n)) (hn : 512 < n) :
    RaisesOnly (.command w) .capacityViolation w := by
  intro k info
  have hop : bits w 31 28 = 2 := bits_opcode_of_decode h
  simp [RaisesFault, not_illegalWord_of_decode h, hop, bits_count_of_decode h, hn, Cause.code]

theorem not_raisesFault_of_decode {w : Word} {i : Instr} (h : decode w = .ok i) (hi : ∀ n, i = .proc n → n ≤ 512)
    (k info : Nat) : ¬RaisesFault (.command w) k info := by
  rintro (⟨hw, _⟩ | ⟨_, hop, hcount, _⟩)
  · exact not_illegalWord_of_decode h hw
  · obtain ⟨n, rfl⟩ := eq_proc_of_opcode ((bits_opcode_of_decode h).symm.trans hop)
    have hn := hi n rfl
    rw [bits_count_of_decode h] at hcount
    omega

theorem raisesOnly_of_rejected_read {space : BitVec 2} {addr : BitVec 20} (h : ¬ReadAccepted space addr) :
    RaisesOnly (.hostRead space addr) .badHostAccess (accessInfo space addr) := by
  intro k info
  rw [accessInfo_toNat]
  simp [RaisesFault, h, Cause.code]

theorem raisesOnly_of_rejected_write {space : BitVec 2} {addr : BitVec 20} (v : Word)
    (h : ¬WriteAccepted space addr) :
    RaisesOnly (.hostWrite space addr v) .badHostAccess (accessInfo space addr) := by
  intro k info
  rw [accessInfo_toNat]
  simp [RaisesFault, h, Cause.code]

/-! The steps that enter a fault or do not, action by action. -/

/-- A command other than `PROC` beyond the capacity leaves `STATUS` and `FAULT_INFO` as they were (R25, R26, R210). -/
theorem exec_keeps_status {i : Instr} {s t : State} (hi : ∀ n, i = .proc n → n ≤ 512) (h : exec i s = .next t) :
    t.fault = s.fault ∧ t.cause = s.cause ∧ t.faultInfo = s.faultInfo := by
  rcases (exec_onlyByWriters h).status with hkeep | ⟨n, hp, hn⟩
  · exact hkeep
  · exact absurd (hi n hp) (Nat.not_le.2 hn)

/-- R234, R252: beyond the capacity `PROC` raises `CapacityViolation` with the word it was decoded from. -/
theorem exec_proc_beyond_capacity {w : Word} {n : Nat} (h : decode w = .ok (.proc n)) (hn : 512 < n) (s : State) :
    exec (.proc n) s = .next (raise .capacityViolation w s) := by
  rw [← (decodedWordsEncodeBack w _ h).2]
  exact if_pos hn

section
variable {s t : State} {rest : List HostAction}

theorem command_faultsAsListed {w : Word} (hf : s.fault = false) (hp : s.port = .command w :: rest)
    (h : step s = .next t) : FaultsAsListed (.command w) rest s t := by
  cases hd : decode w with
  | error e =>
    have hw : IllegalWord w := (decode_eq_error_iff_illegalWord w).1 ⟨e, hd⟩
    cases (step_command_illegal hp hf hw).symm.trans h
    exact .inl ⟨_, w, raisesOnly_of_illegalWord hw, rfl⟩
  | ok i =>
    rw [step_command_decoded hp hf hd] at h
    by_cases hi : ∀ n, i = .proc n → n ≤ 512
    case pos =>
      exact .inr ⟨not_raisesFault_of_decode hd hi, (exec_keeps_status hi h).1.trans hf⟩
    case neg =>
      push Not at hi
      obtain ⟨n, rfl, hn⟩ := hi
      cases (exec_proc_beyond_capacity hd hn _).symm.trans h
      exact .inl ⟨_, w, raisesOnly_of_proc hd hn, rfl⟩

theorem write_faultsAsListed {space : BitVec 2} {addr : BitVec 20} {v : Word} (hf : s.fault = false)
    (hp : s.port = .hostWrite space addr v :: rest) (h : step s = .next t) :
    FaultsAsListed (.hostWrite space addr v) rest s t := by
  by_cases hacc : WriteAccepted space addr
  case pos =>
    refine .inr ⟨fun _ _ hr => hr.1 hacc, ?_⟩
    obtain ⟨hspace, haddr⟩ := hacc
    rcases space_eq_of_le_one hspace with rfl | rfl <;>
      cases (step_write_accepted hf hp (if_pos haddr)).symm.trans h <;> exact hf
  case neg =>
    cases (step_write_rejected hf hp hacc).symm.trans h
    exact .inl ⟨_, _, raisesOnly_of_rejected_write v hacc, rfl⟩

theorem read_faultsAsListed {space : BitVec 2} {addr : BitVec 20} (hf : s.fault = false)
    (hp : s.port = .hostRead space addr :: rest) (h : step s = .next t) :
    FaultsAsListed (.hostRead space addr) rest s t := by
  by_cases hacc : ReadAccepted space addr
  case pos =>
    obtain ⟨_, _, hstep⟩ := step_read_accepted hp hacc
    cases hstep.symm.trans h
    exact .inr ⟨fun _ _ hr => hr.1 hacc, hf⟩
  case neg =>
    cases (step_read_rejected hf hp hacc).symm.trans h
    exact .inl ⟨_, _, raisesOnly_of_rejected_read hacc, rfl⟩

theorem step_faultsAsListed {a : HostAction} (hf : s.fault = false) (hp : s.port = a :: rest)
    (h : step s = .next t) : FaultsAsListed a rest s t := by
  cases a with
  | hardReset =>
    cases (step_hardReset hp).symm.trans h
    exact .inr ⟨fun _ _ hr => hr, rfl⟩
  | command w => exact command_faultsAsListed hf hp h
  | hostWrite space addr v => exact write_faultsAsListed hf hp h
  | hostRead space addr => exact read_faultsAsListed hf hp h

end

/-- Settles O11: each action has at most one row in the list of faults, and enters exactly that fault. -/
theorem faultsAreCompleteAndPrecise : Obligations.FaultsAreCompleteAndPrecise := by
  intro s t a rest hf hp h
  rcases step_faultsAsListed hf hp h with ⟨c, x, honly, rfl⟩ | ⟨hnone, hclear⟩
  · refine ⟨⟨fun _ => ⟨_, _, (honly _ _).2 ⟨rfl, rfl⟩⟩, fun _ => rfl⟩, fun k info hr => ?_⟩
    obtain ⟨rfl, rfl⟩ := (honly k info).1 hr
    exact ⟨rfl, rfl, rfl⟩
  · refine ⟨⟨fun ht => ?_, fun ⟨k, info, hr⟩ => absurd hr (hnone k info)⟩, fun k info hr => absurd hr (hnone k info)⟩
    cases hclear.symm.trans ht

end Sys2Proof.Machine

/-! PROOF. `PROC` as a whole (R230 to R234): the capacity check, the block that does nothing, the frame of a block. -/

namespace Sys2Proof.Machine

/-- Settles O32: the capacity check comes before the block, and a block writes neither `STATUS` nor `FAULT_INFO`. -/
theorem procBeyondCapacityRaises : Obligations.ProcBeyondCapacityRaises := by
  intro s w count rest hp hf hd
  rw [step_command_decoded hp hf hd]
  refine ⟨fun hn => ⟨_, exec_proc_beyond_capacity hd hn _, rfl, rfl⟩, fun hn t h => ?_⟩
  obtain ⟨hfault, _, hinfo⟩ := exec_keeps_status (fun n e => Instr.proc.inj e ▸ hn) h
  exact ⟨hfault.trans hf, hinfo⟩

/-! A block that has nothing to do. -/

theorem runStage_zero_pairs (b : Bool) (step : Nat → State → Option State) (s : State) :
    runStage b 0 step s = some s := by
  cases b <;> rfl

/-- R233: with no pairs every loop runs zero times. -/
theorem procBlock_zero_pairs (f : BitVec 4) (s : State) : procBlock f 0 s = some s := by
  simp only [procBlock, runStage_zero_pairs, Option.bind_some]

/-- R231: with every stage disabled a block does nothing. -/
theorem procBlock_zero_flags (n : Nat) (s : State) : procBlock 0 n s = some s := rfl

/-- Settles O33: in both cases the block answers the state it started from. -/
theorem procWithNothingToDoChangesNothing : Obligations.ProcWithNothingToDoChangesNothing := by
  refine fun s => ⟨?_, fun count hn hf => ?_⟩
  · exact (exec_proc_eq_next_iff (Nat.zero_le _) s s).2 (procBlock_zero_pairs s.flags s)
  · exact (exec_proc_eq_next_iff hn s s).2 (hf ▸ procBlock_zero_flags count s)

/-! The frame of a block. -/

/-- R38, R230: within the bounds a block of any flags completes. -/
theorem procBlock_completes (f : BitVec 4) (n : Nat) {s : State} (hs : s.BoundsHold) : ∃ t, procBlock f n s = some t :=
  procBlock_isSome f (boundsHold_kept n) State.BoundsHold.inRange hs

theorem SameOutside.dryWord_eq {s t : State} (h : SameOutside s t) (j : Nat) : dryWord t j = dryWord s j :=
  dryWord_congr (by rw [h]) (by rw [h]) j

/-- Settles O34: every step keeps the frame's clauses, and a disabled stage takes no step. -/
theorem procCompletesAndFrames : Obligations.ProcCompletesAndFrames := by
  intro s count hbounds hn
  obtain ⟨t, ht⟩ := procBlock_completes s.flags count hbounds
  have houtside := procBlock_sameOutside ht
  obtain ⟨hrvb, hsur, hbass, hnr⟩ := procBlock_stage_frame ht
  exact ⟨t, (exec_proc_eq_next_iff hn s t).2 ht, houtside, procBlock_sameActive ht, fun _ => procBlock_mixBeyond ht,
    houtside.dryWord_eq, fun off => hrvb.resolve_right (ne_true_of_eq_false off),
    fun off => hsur.resolve_right (ne_true_of_eq_false off), fun off => hbass.resolve_right (ne_true_of_eq_false off),
    fun off => hnr.resolve_right (ne_true_of_eq_false off)⟩

end Sys2Proof.Machine

/-! PROOF. The one shape of the four stage steps (R141, R161, R181, R201), and the updates of the state that pass
through it: a block does the same under other flags, parameters and rate (R231, R273). -/

namespace Sys2Proof.Machine

/-! A stage: where its history stands in the state, when it is in range, and its step as a function of the dry pair, the
`MIX` pair and the history. -/

/-- A stage whose history is of type `H`. The laws say that the history is a part of the state of its own, apart from
the buffers. -/
structure Stage (H : Type) where
  get : State → H
  set : H → State → State
  inRange : H → Bool
  run : Word → Word → Word → Word → H → H × Word × Word
  get_setMix : ∀ m s, get (s.setMix m) = get s
  get_setDry : ∀ m s, get (s.setDry m) = get s
  set_setMix : ∀ h m s, set h (s.setMix m) = (set h s).setMix m
  set_setDry : ∀ h m s, set h (s.setDry m) = (set h s).setDry m
  set_mix : ∀ h s, (set h s).mix = s.mix
  set_dry : ∀ h s, (set h s).dry = s.dry
  set_resets : ∀ h s, (set h s).resets = s.resets

section
variable {H : Type}

/-- The history after the stage's step on pair `i`, and the pair it writes. -/
def Stage.out (S : Stage H) (i : Nat) (s : State) : H × Word × Word :=
  S.run (dryWord s (2 * i)) (dryWord s (2 * i + 1)) (mixWord s (2 * i)) (mixWord s (2 * i + 1)) (S.get s)

/-- `s` with the history `o.1` and the pair `o.2` at `i`. -/
def Stage.put (S : Stage H) (i : Nat) (o : H × Word × Word) (s : State) : State :=
  writePair i o.2.1 o.2.2 (S.set o.1 s)

/-- The stage's step on pair `i`; none where a position lies beyond its ring's capacity (log 7). -/
def Stage.stepAt (S : Stage H) (i : Nat) (s : State) : Option State :=
  if S.inRange (S.get s) then some (S.put i (S.out i s) s) else none

end

/-- `RVB.STEP` (R141). -/
def rvbStage : Stage Reverb where
  get := State.rvb
  set := State.setRvb
  inRange := rvbInRange
  run := rvbStep
  get_setMix _ _ := rfl
  get_setDry _ _ := rfl
  set_setMix _ _ _ := rfl
  set_setDry _ _ _ := rfl
  set_mix _ _ := rfl
  set_dry _ _ := rfl
  set_resets _ _ := rfl

/-- `SUR.STEP` (R161), which reads no `DRY`. -/
def surStage : Stage Surround where
  get := State.sur
  set := State.setSur
  inRange := surInRange
  run _ _ := surStep
  get_setMix _ _ := rfl
  get_setDry _ _ := rfl
  set_setMix _ _ _ := rfl
  set_setDry _ _ _ := rfl
  set_mix _ _ := rfl
  set_dry _ _ := rfl
  set_resets _ _ := rfl

/-- `BASS.STEP` (R181), which reads no `DRY`. -/
def bassStage : Stage Bass where
  get := State.bass
  set := State.setBass
  inRange := bassInRange
  run _ _ := bassStep
  get_setMix _ _ := rfl
  get_setDry _ _ := rfl
  set_setMix _ _ _ := rfl
  set_setDry _ _ _ := rfl
  set_mix _ _ := rfl
  set_dry _ _ := rfl
  set_resets _ _ := rfl

/-- `NR.STEP` (R201), which reads no `DRY` and accesses no ring (R35). -/
def nrStage : Stage Noise where
  get := State.nr
  set := State.setNr
  inRange _ := true
  run _ _ := nrStep
  get_setMix _ _ := rfl
  get_setDry _ _ := rfl
  set_setMix _ _ _ := rfl
  set_setDry _ _ _ := rfl
  set_mix _ _ := rfl
  set_dry _ _ := rfl
  set_resets _ _ := rfl

theorem rvbStepAt_eq : rvbStepAt = rvbStage.stepAt := rfl
theorem surStepAt_eq : surStepAt = surStage.stepAt := rfl
theorem bassStepAt_eq : bassStepAt = bassStage.stepAt := rfl
theorem nrStepAt_eq : nrStepAt = nrStage.stepAt := rfl

/-! What the laws give for a pair written with a history. -/

section
variable {H : Type} (S : Stage H) (h : H) (i j : Nat) (l r : Word) (s : State)

@[simp] theorem Stage.mixWord_set : mixWord (S.set h s) j = mixWord s j :=
  mixWord_congr (S.set_mix h s) (S.set_resets h s) j

@[simp] theorem Stage.dryWord_set : dryWord (S.set h s) j = dryWord s j :=
  dryWord_congr (S.set_dry h s) (S.set_resets h s) j

theorem writePair_eq_setMix : writePair i l r s = s.setMix (writePair i l r s).mix := rfl

@[simp] theorem Stage.get_writePair : S.get (writePair i l r s) = S.get s := by
  rw [writePair_eq_setMix, S.get_setMix]

theorem Stage.set_writePair : S.set h (writePair i l r s) = writePair i l r (S.set h s) := by
  have hmix : (writePair i l r (S.set h s)).mix = (writePair i l r s).mix := by
    simp only [writePair, writeMix_mix, S.set_mix]
  rw [writePair_eq_setMix, S.set_setMix, writePair_eq_setMix _ _ _ (S.set h s), hmix]

@[simp] theorem dryWord_writePair : dryWord (writePair i l r s) j = dryWord s j := rfl

end

/-! An update of the state passes through a step when the step does the same before it and after it. -/

/-- The step does the same on an updated state, and the update is still there after it. -/
def PassesThrough (g : State → State) (step : Nat → State → Option State) : Prop :=
  ∀ (i : Nat) (s : State), step i (g s) = (step i s).map g

/-- At one pair and one state: the update leaves what the step reads, and commutes with what it writes. -/
theorem Stage.stepAt_update {H : Type} {S : Stage H} {g : State → State} {i : Nat} {s : State}
    (hget : S.get (g s) = S.get s) (hout : S.out i (g s) = S.out i s)
    (hput : ∀ o, S.put i o (g s) = g (S.put i o s)) : S.stepAt i (g s) = (S.stepAt i s).map g := by
  unfold Stage.stepAt
  rw [hget, hout, hput, apply_ite (Option.map g)]
  rfl

theorem Stage.passesThrough {H : Type} (S : Stage H) {g : State → State} (hget : ∀ s, S.get (g s) = S.get s)
    (hout : ∀ i s, S.out i (g s) = S.out i s) (hput : ∀ i o s, S.put i o (g s) = g (S.put i o s)) :
    PassesThrough g S.stepAt :=
  fun i s => Stage.stepAt_update (hget s) (hout i s) fun o => hput i o s

/-- The update passes through the steps of all four stages. -/
structure PassesThroughStages (g : State → State) : Prop where
  rvb : PassesThrough g rvbStepAt
  sur : PassesThrough g surStepAt
  bass : PassesThrough g bassStepAt
  nr : PassesThrough g nrStepAt

theorem PassesThrough.runStage {g : State → State} {step : Nat → State → Option State} (hg : PassesThrough g step)
    {b : Bool} {n : Nat} {s t : State} (h : runStage b n step s = some t) : runStage b n step (g s) = some (g t) := by
  obtain ⟨_, ht, rfl⟩ := runStage_simulated (R := fun u u' => u' = g u)
    (fun {_ _ _ v} _ hu hv => ⟨g v, by rw [hu, hg, hv, Option.map_some], rfl⟩) h rfl
  exact ht

theorem PassesThroughStages.block {g : State → State} (hg : PassesThroughStages g) {f : BitVec 4} {n : Nat}
    {s t : State} (h : procBlock f n s = some t) : procBlock f n (g s) = some (g t) := by
  obtain ⟨s1, s2, s3, h1, h2, h3, h4⟩ := procBlock_cases h
  simp only [procBlock, hg.rvb.runStage h1, hg.sur.runStage h2, hg.bass.runStage h3, hg.nr.runStage h4,
    Option.bind_some]

/-! Flags: the stages run in their fixed order (R231). -/

/-- No step reads or writes `FLAGS`: they are latched at the start of a block (R230). -/
theorem setFlags_passesThroughStages (v : BitVec 4) : PassesThroughStages (State.setFlags v) where
  rvb := rvbStage.passesThrough (fun _ => rfl) (fun _ _ => rfl) fun _ _ _ => rfl
  sur := surStage.passesThrough (fun _ => rfl) (fun _ _ => rfl) fun _ _ _ => rfl
  bass := bassStage.passesThrough (fun _ => rfl) (fun _ _ => rfl) fun _ _ _ => rfl
  nr := nrStage.passesThrough (fun _ => rfl) (fun _ _ => rfl) fun _ _ _ => rfl

/-! A block with one bit of the flags kept is that bit's stage, if it is enabled (R231). -/

theorem procBlock_rvb_bit (f : BitVec 4) (n : Nat) (s : State) :
    procBlock (f &&& 1) n s = runStage (flagRvb f) n rvbStepAt s := by
  obtain ⟨hrvb, hsur, hbass, hnr⟩ : flagRvb (f &&& 1) = flagRvb f ∧ flagSur (f &&& 1) = false ∧
      flagBass (f &&& 1) = false ∧ flagNr (f &&& 1) = false := by
    revert f
    decide
  simp only [procBlock, hrvb, hsur, hbass, hnr, runStage_false, Option.bind_fun_some]

theorem procBlock_sur_bit (f : BitVec 4) (n : Nat) (s : State) :
    procBlock (f &&& 2) n s = runStage (flagSur f) n surStepAt s := by
  obtain ⟨hrvb, hsur, hbass, hnr⟩ : flagRvb (f &&& 2) = false ∧ flagSur (f &&& 2) = flagSur f ∧
      flagBass (f &&& 2) = false ∧ flagNr (f &&& 2) = false := by
    revert f
    decide
  simp only [procBlock, hrvb, hsur, hbass, hnr, runStage_false, Option.bind_fun_some, Option.bind_some]

theorem procBlock_bass_bit (f : BitVec 4) (n : Nat) (s : State) :
    procBlock (f &&& 4) n s = runStage (flagBass f) n bassStepAt s := by
  obtain ⟨hrvb, hsur, hbass, hnr⟩ : flagRvb (f &&& 4) = false ∧ flagSur (f &&& 4) = false ∧
      flagBass (f &&& 4) = flagBass f ∧ flagNr (f &&& 4) = false := by
    revert f
    decide
  simp only [procBlock, hrvb, hsur, hbass, hnr, runStage_false, Option.bind_fun_some, Option.bind_some]

theorem procBlock_nr_bit (f : BitVec 4) (n : Nat) (s : State) :
    procBlock (f &&& 8) n s = runStage (flagNr f) n nrStepAt s := by
  obtain ⟨hrvb, hsur, hbass, hnr⟩ : flagRvb (f &&& 8) = false ∧ flagSur (f &&& 8) = false ∧
      flagBass (f &&& 8) = false ∧ flagNr (f &&& 8) = flagNr f := by
    revert f
    decide
  simp only [procBlock, hrvb, hsur, hbass, hnr, runStage_false, Option.bind_some]

/-- Settles O39: the states between the four stages of the block, each under the flags of its own block. -/
theorem stagesRunInFixedOrder : Obligations.StagesRunInFixedOrder := by
  intro s n hbounds hn
  obtain ⟨t, ht⟩ := procBlock_completes s.flags n hbounds
  obtain ⟨s1, s2, s3, h1, h2, h3, h4⟩ := procBlock_cases ht
  have hpass (v : BitVec 4) := setFlags_passesThroughStages v
  refine ⟨s1.setFlags (s.flags &&& 1), s2.setFlags (s.flags &&& 2), s3.setFlags (s.flags &&& 4),
    t.setFlags (s.flags &&& 8), ?_, ?_, ?_, ?_, ?_⟩
  · exact (exec_proc_eq_next_iff hn (s.setFlags _) _).2
      ((procBlock_rvb_bit s.flags n _).trans ((hpass _).rvb.runStage h1))
  · exact (exec_proc_eq_next_iff hn (s1.setFlags _) _).2
      ((procBlock_sur_bit s.flags n _).trans ((hpass _).sur.runStage h2))
  · exact (exec_proc_eq_next_iff hn (s2.setFlags _) _).2
      ((procBlock_bass_bit s.flags n _).trans ((hpass _).bass.runStage h3))
  · exact (exec_proc_eq_next_iff hn (s3.setFlags _) _).2
      ((procBlock_nr_bit s.flags n _).trans ((hpass _).nr.runStage h4))
  · have hflags : t.setFlags s.flags = t := by rw [← (procBlock_sameOutside ht).flags]; rfl
    exact ((exec_proc_eq_next_iff hn s t).2 ht).trans (congrArg _ hflags.symm)

/-! Parameters and rate (R133, R273). -/

/-- `s` with the parameter registers and the rate of `p`. -/
def copyConfiguration (p s : State) : State :=
  { s with
    rate := p.rate, rvbDepth := p.rvbDepth, rvbDelay := p.rvbDelay, bassDepth := p.bassDepth
    bassRange := p.bassRange, surDepth := p.surDepth, surDelay := p.surDelay }

/-- R273: no step reads or writes a parameter register or `RATE`. -/
theorem copyConfiguration_passesThroughStages (p : State) : PassesThroughStages (copyConfiguration p) where
  rvb := rvbStage.passesThrough (fun _ => rfl) (fun _ _ => rfl) fun _ _ _ => rfl
  sur := surStage.passesThrough (fun _ => rfl) (fun _ _ => rfl) fun _ _ _ => rfl
  bass := bassStage.passesThrough (fun _ => rfl) (fun _ _ => rfl) fun _ _ _ => rfl
  nr := nrStage.passesThrough (fun _ => rfl) (fun _ _ => rfl) fun _ _ _ => rfl

/-- Settles O45: beyond the capacity only `STATUS` and `FAULT_INFO` are written, else the stages read neither. -/
theorem procIgnoresParametersAndRate : Obligations.ProcIgnoresParametersAndRate := by
  intro s s' t n hs' h
  change exec (.proc n) s' = .next (copyConfiguration s' t)
  have hs' : s' = copyConfiguration s' s := hs'
  rw [hs']
  by_cases hn : n ≤ 512
  case pos =>
    have hblock := (exec_proc_eq_next_iff hn s t).1 h
    exact (exec_proc_eq_next_iff hn _ _).2 ((copyConfiguration_passesThroughStages s').block hblock)
  case neg =>
    have hfault (u : State) : exec (.proc n) u = .next (raise .capacityViolation (encode (.proc n)) u) :=
      if_pos (not_le.1 hn)
    cases (hfault s).symm.trans h
    exact hfault _

end Sys2Proof.Machine

/-! PROOF. The two orders of a block agree (R232): steps of different stages on different pairs exchange, so the loops
of the stages can be merged into one loop over the pairs. -/

namespace Sys2Proof.Machine

/-! Writes to `MIX` exchange while its list is sorted (log 1). -/

/-- The indices of the listed words of `MIX` rise. -/
def State.MixRising (s : State) : Prop := risingFrom 0 s.mix = true

theorem State.mixRising_of_wf {size : Nat} {d : Option Word} {s : State} (h : Memory.wf size d s.mix = true) :
    s.MixRising := (Bool.and_eq_true_iff.1 h).1

theorem State.MixRising.writeMix {s : State} (h : s.MixRising) (a : Nat) (v : Word) : (writeMix a v s).MixRising :=
  risingFrom_memInsert v h (Nat.zero_le a)

theorem State.MixRising.writePair {s : State} (h : s.MixRising) (i : Nat) (l r : Word) :
    (writePair i l r s).MixRising :=
  (h.writeMix _ _).writeMix _ _

theorem writeMix_comm {s : State} (hs : s.MixRising) {a b : Nat} (hab : a ≠ b) (u v : Word) :
    writeMix b v (writeMix a u s) = writeMix a u (writeMix b v s) :=
  congrArg s.setMix (memWrite_none_comm u v hs hab)

theorem writePair_comm {s : State} (hs : s.MixRising) {i j : Nat} (hij : i ≠ j) (l r l' r' : Word) :
    writePair j l' r' (writePair i l r s) = writePair i l r (writePair j l' r' s) := by
  have hleft := hs.writeMix (2 * i) l
  have hleft' := hs.writeMix (2 * j) l'
  unfold writePair
  rw [writeMix_comm hleft (by omega : 2 * i + 1 ≠ 2 * j), writeMix_comm hs (by omega : 2 * i ≠ 2 * j),
    writeMix_comm (hleft'.writeMix _ _) (by omega : 2 * i + 1 ≠ 2 * j + 1),
    writeMix_comm hleft' (by omega : 2 * i ≠ 2 * j + 1)]

/-! Two stages that share no history. -/

/-- Each stage's history is apart from the other's. -/
structure Stage.Apart {H K : Type} (S : Stage H) (T : Stage K) : Prop where
  get_set : ∀ h s, T.get (S.set h s) = T.get s
  get_set' : ∀ k s, S.get (T.set k s) = S.get s
  set_comm : ∀ h k s, T.set k (S.set h s) = S.set h (T.set k s)

section
variable {H K : Type} {S : Stage H} {T : Stage K} {s t : State} {i j : Nat}

theorem Stage.Apart.symm (h : S.Apart T) : T.Apart S :=
  ⟨h.get_set', h.get_set, fun k h' s => (h.set_comm h' k s).symm⟩

theorem Stage.put_of_stepAt (h : S.stepAt i s = some t) : ∃ o, t = S.put i o s := by
  unfold Stage.stepAt at h
  split at h
  case isTrue =>
    cases h
    exact ⟨_, rfl⟩
  case isFalse => cases h

theorem Stage.put_mixRising (o : H × Word × Word) (hs : s.MixRising) : (S.put i o s).MixRising := by
  have hset : (S.set o.1 s).MixRising := by
    unfold State.MixRising
    rwa [S.set_mix]
  exact hset.writePair _ _ _

/-- What one stage writes at one pair, the other's step on another pair does not read. -/
theorem Stage.Apart.out_put (h : S.Apart T) (hij : i ≠ j) (o : H × Word × Word) :
    T.out j (S.put i o s) = T.out j s := by
  have hpairs : 2 * j ≠ 2 * i ∧ 2 * j ≠ 2 * i + 1 ∧ 2 * j + 1 ≠ 2 * i ∧ 2 * j + 1 ≠ 2 * i + 1 := by omega
  simp only [Stage.out, Stage.put, mixWord_writePair, dryWord_writePair, Stage.mixWord_set, Stage.dryWord_set,
    Stage.get_writePair, h.get_set, hpairs, if_false]

theorem Stage.Apart.put_put (h : S.Apart T) (hs : s.MixRising) (hij : i ≠ j) (o : H × Word × Word)
    (p : K × Word × Word) : T.put j p (S.put i o s) = S.put i o (T.put j p s) := by
  have hset : (S.set o.1 (T.set p.1 s)).MixRising := by
    unfold State.MixRising
    rwa [S.set_mix, T.set_mix]
  simp only [Stage.put, Stage.set_writePair, h.set_comm]
  exact writePair_comm hset hij _ _ _ _

/-- A step of one stage passes through the other's step on another pair. -/
theorem Stage.Apart.stepAt_put (h : S.Apart T) (hs : s.MixRising) (hij : i ≠ j) (o : H × Word × Word) :
    T.stepAt j (S.put i o s) = (T.stepAt j s).map (S.put i o) :=
  Stage.stepAt_update (by rw [Stage.put, Stage.get_writePair, h.get_set]) (h.out_put hij o)
    fun p => h.put_put hs hij o p

end

/-! Steps of pairs that exchange, and what is built from them. -/

/-- A step of a pair keeps the list of `MIX` sorted. -/
def KeepsMixRising (A : Nat → State → Option State) : Prop :=
  ∀ ⦃i s t⦄, A i s = some t → s.MixRising → t.MixRising

/-- A step of `A` on one pair and a step of `B` on another can be taken in either order. -/
def Exchanges (A B : Nat → State → Option State) : Prop :=
  ∀ ⦃i j s⦄, i ≠ j → s.MixRising → (A i s).bind (B j) = (B j s).bind (A i)

theorem Stage.keepsMixRising {H : Type} (S : Stage H) : KeepsMixRising S.stepAt := by
  intro i s t h hs
  obtain ⟨o, rfl⟩ := Stage.put_of_stepAt h
  exact Stage.put_mixRising o hs

theorem Stage.Apart.exchanges {H K : Type} {S : Stage H} {T : Stage K} (h : S.Apart T) :
    Exchanges S.stepAt T.stepAt := by
  intro i j s hij hs
  have hS (u : State) (hu : S.stepAt i s = some u) : T.stepAt j u = (T.stepAt j s).bind (S.stepAt i) := by
    obtain ⟨o, rfl⟩ := Stage.put_of_stepAt hu
    rw [h.stepAt_put hs hij]
    cases hT : T.stepAt j s with
    | none => rfl
    | some v =>
      obtain ⟨p, rfl⟩ := Stage.put_of_stepAt hT
      simp only [Option.map_some, Option.bind_some, h.symm.stepAt_put hs hij.symm, hu, h.put_put hs hij]
  cases hu : S.stepAt i s with
  | some u => exact hS u hu
  | none =>
    cases hT : T.stepAt j s with
    | none => rfl
    | some v =>
      obtain ⟨p, rfl⟩ := Stage.put_of_stepAt hT
      simp only [Option.bind_none, Option.bind_some, h.symm.stepAt_put hs hij.symm, hu, Option.map_none]

/-- The step of a stage where it is enabled, nothing where it is not (R231). -/
def gated (b : Bool) (A : Nat → State → Option State) (i : Nat) (s : State) : Option State :=
  if b then A i s else some s

/-- `A` and then `B`, on the same pair. -/
def andThen (A B : Nat → State → Option State) (i : Nat) (s : State) : Option State := (A i s).bind (B i)

section
variable {A B C : Nat → State → Option State}

theorem Exchanges.symm (h : Exchanges A B) : Exchanges B A := fun _ _ _ hij hs => (h hij.symm hs).symm

theorem KeepsMixRising.gated (h : KeepsMixRising A) (b : Bool) : KeepsMixRising (gated b A) := by
  intro i s t ht hs
  cases b with
  | true => exact h ht hs
  | false => cases ht; exact hs

theorem Exchanges.gated (h : Exchanges A B) (b c : Bool) : Exchanges (gated b A) (gated c B) := by
  intro i j s hij hs
  cases b with
  | false => exact (Option.bind_fun_some _).symm
  | true =>
    cases c with
    | false => exact Option.bind_fun_some _
    | true => exact h hij hs

theorem KeepsMixRising.andThen (hA : KeepsMixRising A) (hB : KeepsMixRising B) : KeepsMixRising (andThen A B) := by
  intro i s t h hs
  obtain ⟨u, hu, ht⟩ := Option.bind_eq_some_iff.1 h
  exact hB ht (hA hu hs)

theorem KeepsMixRising.loop (hA : KeepsMixRising A) {n : Nat} {s t : State} (h : forPairs n A s = some t)
    (hs : s.MixRising) : t.MixRising :=
  forPairs_keeps (P := State.MixRising) (fun _ hstep => hA hstep) h hs

theorem Exchanges.andThen_left (hA : KeepsMixRising A) (hAC : Exchanges A C) (hBC : Exchanges B C) :
    Exchanges (andThen A B) C := by
  intro i j s hij hs
  calc ((A i s).bind (B i)).bind (C j) = (A i s).bind fun u => (B i u).bind (C j) := Option.bind_assoc _ _ _
    _ = (A i s).bind fun u => (C j u).bind (B i) := Option.bind_congr fun u hu => hBC hij (hA hu hs)
    _ = ((A i s).bind (C j)).bind (B i) := (Option.bind_assoc _ _ _).symm
    _ = ((C j s).bind (A i)).bind (B i) := by rw [hAC hij hs]
    _ = (C j s).bind (andThen A B i) := Option.bind_assoc _ _ _

/-- A step on a pair beyond the loop's exchanges with the whole loop. -/
theorem Exchanges.step_loop (hB : KeepsMixRising B) (h : Exchanges A B) {n i : Nat} (hi : n ≤ i) {s : State}
    (hs : s.MixRising) : (A i s).bind (forPairs n B) = (forPairs n B s).bind (A i) := by
  induction n with
  | zero => exact Option.bind_fun_some _
  | succ n ih =>
    calc (A i s).bind (fun u => (forPairs n B u).bind (B n))
        = ((A i s).bind (forPairs n B)).bind (B n) := (Option.bind_assoc _ _ _).symm
      _ = ((forPairs n B s).bind (A i)).bind (B n) := by rw [ih (Nat.le_of_succ_le hi)]
      _ = (forPairs n B s).bind fun u => (A i u).bind (B n) := Option.bind_assoc _ _ _
      _ = (forPairs n B s).bind fun u => (B n u).bind (A i) :=
        Option.bind_congr fun u hu => h (Nat.ne_of_gt hi) (hB.loop hu hs)
      _ = ((forPairs n B s).bind (B n)).bind (A i) := (Option.bind_assoc _ _ _).symm

/-- Two loops one after the other are one loop of both steps. -/
theorem Exchanges.merge_loops (hA : KeepsMixRising A) (hB : KeepsMixRising B) (h : Exchanges A B) (n : Nat)
    {s : State} (hs : s.MixRising) :
    (forPairs n A s).bind (forPairs n B) = forPairs n (andThen A B) s := by
  induction n with
  | zero => rfl
  | succ n ih =>
    calc ((forPairs n A s).bind (A n)).bind (forPairs (n + 1) B)
        = (forPairs n A s).bind fun u => ((A n u).bind (forPairs n B)).bind (B n) := by
          rw [Option.bind_assoc]
          exact Option.bind_congr fun u _ => (Option.bind_assoc _ _ _).symm
      _ = (forPairs n A s).bind fun u => ((forPairs n B u).bind (A n)).bind (B n) :=
        Option.bind_congr fun u hu => by rw [h.step_loop hB le_rfl (hA.loop hu hs)]
      _ = ((forPairs n A s).bind (forPairs n B)).bind (andThen A B n) := by
          rw [Option.bind_assoc]
          exact Option.bind_congr fun u _ => Option.bind_assoc _ _ _
      _ = (forPairs n (andThen A B) s).bind (andThen A B n) := by rw [ih]

end

/-! The four stages. -/

theorem rvb_sur_apart : rvbStage.Apart surStage := ⟨fun _ _ => rfl, fun _ _ => rfl, fun _ _ _ => rfl⟩
theorem rvb_bass_apart : rvbStage.Apart bassStage := ⟨fun _ _ => rfl, fun _ _ => rfl, fun _ _ _ => rfl⟩
theorem rvb_nr_apart : rvbStage.Apart nrStage := ⟨fun _ _ => rfl, fun _ _ => rfl, fun _ _ _ => rfl⟩
theorem sur_bass_apart : surStage.Apart bassStage := ⟨fun _ _ => rfl, fun _ _ => rfl, fun _ _ _ => rfl⟩
theorem sur_nr_apart : surStage.Apart nrStage := ⟨fun _ _ => rfl, fun _ _ => rfl, fun _ _ _ => rfl⟩
theorem bass_nr_apart : bassStage.Apart nrStage := ⟨fun _ _ => rfl, fun _ _ => rfl, fun _ _ _ => rfl⟩

/-- R231: a stage of a block is the loop of its gated step. -/
theorem runStage_eq_forPairs (b : Bool) (n : Nat) (A : Nat → State → Option State) :
    runStage b n A = forPairs n (gated b A) := by
  funext s
  cases b with
  | true => rfl
  | false =>
    induction n with
    | zero => rfl
    | succ n ih => rw [forPairs, ← ih]; rfl

theorem pairThroughAll_eq (f : BitVec 4) :
    pairThroughAll f = andThen (andThen (andThen (gated (flagRvb f) rvbStepAt) (gated (flagSur f) surStepAt))
      (gated (flagBass f) bassStepAt)) (gated (flagNr f) nrStepAt) := rfl

/-- R232: from a state whose `MIX` is sorted the stage-major block is the loop of all enabled steps over the pairs. -/
theorem procBlock_eq_forPairs (f : BitVec 4) (n : Nat) {s : State} (hs : s.MixRising) :
    procBlock f n s = forPairs n (pairThroughAll f) s := by
  have kr : KeepsMixRising (gated (flagRvb f) rvbStepAt) := rvbStage.keepsMixRising.gated _
  have ks : KeepsMixRising (gated (flagSur f) surStepAt) := surStage.keepsMixRising.gated _
  have kb : KeepsMixRising (gated (flagBass f) bassStepAt) := bassStage.keepsMixRising.gated _
  have kn : KeepsMixRising (gated (flagNr f) nrStepAt) := nrStage.keepsMixRising.gated _
  have hrs : Exchanges (gated (flagRvb f) rvbStepAt) (gated (flagSur f) surStepAt) := rvb_sur_apart.exchanges.gated _ _
  have hrsb := Exchanges.andThen_left kr (rvb_bass_apart.exchanges.gated (flagRvb f) (flagBass f))
    (sur_bass_apart.exchanges.gated (flagSur f) (flagBass f))
  have hrsbn := Exchanges.andThen_left (kr.andThen ks)
    (Exchanges.andThen_left kr (rvb_nr_apart.exchanges.gated (flagRvb f) (flagNr f))
      (sur_nr_apart.exchanges.gated (flagSur f) (flagNr f)))
    (bass_nr_apart.exchanges.gated (flagBass f) (flagNr f))
  rw [procBlock, pairThroughAll_eq]
  simp only [runStage_eq_forPairs]
  rw [hrs.merge_loops kr ks n hs, hrsb.merge_loops (kr.andThen ks) kb n hs,
    hrsbn.merge_loops ((kr.andThen ks).andThen kb) kn n hs]

/-- Settles O40: the canonical form sorts `MIX`, and the loop of the pairs answers none where the block does. -/
theorem sampleMajorOrderAgrees : Obligations.SampleMajorOrderAgrees := by
  intro s n hwf hn
  rw [← procBlock_eq_forPairs s.flags n (State.mixRising_of_wf hwf)]
  exact if_neg (Nat.not_lt.2 hn)

end Sys2Proof.Machine

/-! PROOF. A block split in two (R235): in the order of the pairs the whole block is its first pairs and then the rest,
and the rest goes side by side with a block at index 0 that holds the same words. -/

namespace Sys2Proof.Machine

/-! Simulation with the pairs renumbered. -/

/-- A step on pair `φ i`, `i < n`, that answers from the first of two related states is matched by the step on pair `i`
from the second, and the results are related. -/
def Simulated (φ : Nat → Nat) (n : Nat) (R : State → State → Prop) (A : Nat → State → Option State) : Prop :=
  ∀ ⦃i s s' t⦄, i < n → R s s' → A (φ i) s = some t → ∃ t', A i s' = some t' ∧ R t t'

section
variable {φ : Nat → Nat} {n : Nat} {R : State → State → Prop} {A B : Nat → State → Option State} {s s' t : State}

theorem Simulated.gated (hA : Simulated φ n R A) (b : Bool) : Simulated φ n R (gated b A) := by
  intro i s s' t hi hR h
  cases b with
  | true => exact hA hi hR h
  | false =>
    cases h
    exact ⟨s', rfl, hR⟩

theorem Simulated.andThen (hA : Simulated φ n R A) (hB : Simulated φ n R B) : Simulated φ n R (andThen A B) := by
  intro i s s' t hi hR h
  obtain ⟨u, hu, ht⟩ := Option.bind_eq_some_iff.1 h
  obtain ⟨u', hu', hRu⟩ := hA hi hR hu
  obtain ⟨t', ht', hRt⟩ := hB hi hRu ht
  exact ⟨t', Option.bind_eq_some_iff.2 ⟨u', hu', ht'⟩, hRt⟩

theorem Simulated.loop (hA : Simulated φ n R A) (h : forPairs n (fun i => A (φ i)) s = some t) (hR : R s s') :
    ∃ t', forPairs n A s' = some t' ∧ R t t' := by
  induction n generalizing t with
  | zero =>
    cases h
    exact ⟨s', rfl, hR⟩
  | succ n ih =>
    obtain ⟨u, hu, hut⟩ := Option.bind_eq_some_iff.1 h
    obtain ⟨u', hu', hRu⟩ := ih (fun _ _ _ _ hi => hA (Nat.lt_succ_of_lt hi)) hu
    obtain ⟨t', ht', hRt⟩ := hA (Nat.lt_succ_self n) hRu hut
    exact ⟨t', Option.bind_eq_some_iff.2 ⟨u', hu', ht'⟩, hRt⟩

/-- What the four stages carry on, the body of the sample-major loop carries on. -/
theorem pairThroughAll_simulated (f : BitVec 4) (hrvb : Simulated φ n R rvbStepAt) (hsur : Simulated φ n R surStepAt)
    (hbass : Simulated φ n R bassStepAt) (hnr : Simulated φ n R nrStepAt) : Simulated φ n R (pairThroughAll f) :=
  (((hrvb.gated _).andThen (hsur.gated _)).andThen (hbass.gated _)).andThen (hnr.gated _)

end

/-! The order of the pairs from any state, up to the words beyond the block: the block reads no word beyond it (R78), so
that `MIX` may be put in sorted form first. -/

/-- The first `k` words of `MIX` as a sorted list. -/
def sortedMix (k : Nat) (s : State) : Memory := (List.range' 0 k).map fun j => (j, mixWord s j)

theorem risingFrom_range' (g : Nat → Word) (lo k : Nat) :
    risingFrom lo ((List.range' lo k).map fun j => (j, g j)) = true := by
  induction k generalizing lo with
  | zero => rfl
  | succ k ih =>
    rw [List.range'_succ, List.map_cons, risingFrom, ih (lo + 1)]
    simp

theorem lookup_map_of_mem (g : Nat → Word) {j : Nat} {l : List Nat} (h : j ∈ l) :
    (l.map fun j => (j, g j)).lookup j = some (g j) := by
  induction l with
  | nil => cases h
  | cons a l ih =>
    by_cases hj : j = a
    · simp [hj]
    · rw [List.map_cons, List.lookup_cons, beq_false_of_ne hj]
      exact ih ((List.mem_cons.1 h).resolve_left hj)

theorem sortedMix_mixRising (k : Nat) (s : State) : (s.setMix (sortedMix k s)).MixRising :=
  risingFrom_range' (mixWord s) 0 k

theorem sortedMix_agrees (n : Nat) (s : State) : AgreeOnBlock n s (s.setMix (sortedMix (2 * n) s)) where
  rest := rfl
  mix j hj := by
    have hmem : j ∈ List.range' 0 (2 * n) := by simpa using hj
    rw [mixWord, State.setMix_mix, memRead, sortedMix, lookup_map_of_mem (mixWord s) hmem, Option.getD_some]
  dry _ _ := rfl

theorem AgreeOnBlock.symm {n : Nat} {s s' : State} (h : AgreeOnBlock n s s') : AgreeOnBlock n s' s where
  rest := by rw [h.rest]
  mix j hj := (h.mix j hj).symm
  dry j hj := (h.dry j hj).symm

theorem AgreeOnBlock.trans {n : Nat} {s t u : State} (h : AgreeOnBlock n s t) (h' : AgreeOnBlock n t u) :
    AgreeOnBlock n s u where
  rest := by
    have hu := h'.rest
    rw [h.rest] at hu
    exact hu
  mix j hj := (h'.mix j hj).trans (h.mix j hj)
  dry j hj := (h'.dry j hj).trans (h.dry j hj)

theorem SimulatedByStages.of_le {n m : Nat} {R : State → State → Prop} (h : SimulatedByStages m R) (hnm : n ≤ m) :
    SimulatedByStages n R where
  rvb hi := h.rvb (hi.trans_le hnm)
  sur hi := h.sur (hi.trans_le hnm)
  bass hi := h.bass (hi.trans_le hnm)
  nr hi := h.nr (hi.trans_le hnm)

/-- R232, R78: what a block of `n` pairs answers, the loop of the pairs answers, up to words beyond `m ≥ n` pairs. -/
theorem procBlock_sampleMajor {f : BitVec 4} {n m : Nat} {s t : State} (hnm : n ≤ m) (h : procBlock f n s = some t) :
    ∃ u, forPairs n (pairThroughAll f) s = some u ∧ AgreeOnBlock m t u := by
  have hsim : SimulatedByStages n (AgreeOnBlock m) := (agreeOnBlock_simulated m).of_le hnm
  have hsorted : AgreeOnBlock m s (s.setMix (sortedMix (2 * m) s)) := sortedMix_agrees m s
  obtain ⟨t', ht', htt'⟩ := procBlock_simulated hsim h hsorted
  rw [procBlock_eq_forPairs f n (sortedMix_mixRising (2 * m) s)] at ht'
  have hpairs : Simulated (fun i => i) n (AgreeOnBlock m) (pairThroughAll f) :=
    pairThroughAll_simulated f (fun _ _ _ _ => hsim.rvb) (fun _ _ _ _ => hsim.sur) (fun _ _ _ _ => hsim.bass)
      fun _ _ _ _ => hsim.nr
  obtain ⟨u, hu, htu⟩ := hpairs.loop ht' hsorted.symm
  exact ⟨u, hu, htt'.trans htu⟩

/-- A loop over `a + b` pairs is the loop over `a` pairs and then the loop over the `b` pairs from `a` on. -/
theorem forPairs_add (a b : Nat) (A : Nat → State → Option State) (s : State) :
    forPairs (a + b) A s = (forPairs a A s).bind (forPairs b fun i => A (a + i)) := by
  induction b with
  | zero => exact (Option.bind_fun_some _).symm
  | succ b ih =>
    rw [← Nat.add_assoc, forPairs, ih, Option.bind_assoc]
    rfl

/-! The rest of a block beside a block at index 0. -/

/-- `s'` differs from `s` in the buffers alone and holds at index 0 the `b` pairs that `s` holds from pair `a` on; below
pair `a` the words of `MIX` in `s` are those of `base`. -/
structure MovedDown (a b : Nat) (base s s' : State) : Prop where
  rest : s' = { s with mix := s'.mix, dry := s'.dry }
  mix : ∀ j, j < 2 * b → mixWord s' j = mixWord s (2 * a + j)
  dry : ∀ j, j < 2 * b → dryWord s' j = dryWord s (2 * a + j)
  below : ∀ j, j < 2 * a → mixWord s j = mixWord base j

section
variable {a b i : Nat} {base s s' : State} {H : Type}

theorem MovedDown.get (h : MovedDown a b base s s') (S : Stage H) : S.get s' = S.get s :=
  (congrArg S.get h.rest).trans ((S.get_setDry _ (s.setMix s'.mix)).trans (S.get_setMix _ s))

/-- The stage reads the same at pair `a + i` of the one as at pair `i` of the other. -/
theorem MovedDown.out (h : MovedDown a b base s s') (S : Stage H) (hi : i < b) : S.out i s' = S.out (a + i) s := by
  have hl : 2 * i < 2 * b := by omega
  have hr : 2 * i + 1 < 2 * b := by omega
  simp only [Stage.out, h.get S, h.mix _ hl, h.mix _ hr, h.dry _ hl, h.dry _ hr, Nat.mul_add, Nat.add_assoc]

theorem MovedDown.set (h : MovedDown a b base s s') (S : Stage H) (x : H) :
    MovedDown a b base (S.set x s) (S.set x s') where
  rest :=
    calc S.set x s' = S.set x ((s.setMix s'.mix).setDry s'.dry) := congrArg (S.set x) h.rest
      _ = ((S.set x s).setMix s'.mix).setDry s'.dry := by rw [S.set_setDry, S.set_setMix]
      _ = ((S.set x s).setMix (S.set x s').mix).setDry (S.set x s').dry := by rw [S.set_mix, S.set_dry]
  mix j hj := by simpa only [Stage.mixWord_set] using h.mix j hj
  dry j hj := by simpa only [Stage.dryWord_set] using h.dry j hj
  below j hj := by simpa only [Stage.mixWord_set] using h.below j hj

theorem MovedDown.writePair (h : MovedDown a b base s s') (i : Nat) (l r : Word) :
    MovedDown a b base (writePair (a + i) l r s) (writePair i l r s') where
  rest := congrArg (State.setMix (Machine.writePair i l r s').mix) h.rest
  mix j hj := by
    have hl : 2 * a + j = 2 * (a + i) ↔ j = 2 * i := by omega
    have hr : 2 * a + j = 2 * (a + i) + 1 ↔ j = 2 * i + 1 := by omega
    simp only [mixWord_writePair, hl, hr, h.mix j hj]
  dry := h.dry
  below j hj := by
    have hl : j ≠ 2 * (a + i) := by omega
    have hr : j ≠ 2 * (a + i) + 1 := by omega
    simp only [mixWord_writePair, hl, hr, if_false, h.below j hj]

end

/-- R235: a stage's step on pair `a + i` of the whole goes with its step on pair `i` of the rest. -/
theorem Stage.movedDown_simulated {H : Type} (S : Stage H) (a b : Nat) (base : State) :
    Simulated (a + ·) b (MovedDown a b base) S.stepAt := by
  intro i s s' t hi hR h
  unfold Stage.stepAt at h ⊢
  rw [hR.get S, hR.out S hi]
  split at h
  case isTrue hin =>
    cases h
    exact ⟨_, if_pos hin, (hR.set S _).writePair i _ _⟩
  case isFalse => cases h

theorem pairThroughAll_movedDown (f : BitVec 4) (a b : Nat) (base : State) :
    Simulated (a + ·) b (MovedDown a b base) (pairThroughAll f) :=
  pairThroughAll_simulated f (rvbStage.movedDown_simulated a b base) (surStage.movedDown_simulated a b base)
    (bassStage.movedDown_simulated a b base) (nrStage.movedDown_simulated a b base)

theorem MovedDown.history {a b : Nat} {base s s' : State} (h : MovedDown a b base s s') : SameHistory s s' := by
  rw [h.rest]
  exact ⟨rfl, rfl, rfl, rfl⟩

theorem MovedDown.of_agreeOnBlock {a b : Nat} {base s s' u : State} (h : MovedDown a b base s s')
    (ha : AgreeOnBlock (a + b) s u) : MovedDown a b base u s' where
  rest := by
    rw [ha.rest]
    exact h.rest
  mix j hj := (h.mix j hj).trans (ha.mix _ (by omega)).symm
  dry j hj := (h.dry j hj).trans (ha.dry _ (by omega)).symm
  below j hj := (ha.mix j (by omega)).trans (h.below j hj)

theorem SameHistory.trans {s t u : State} (h : SameHistory s t) (h' : SameHistory t u) : SameHistory s u :=
  ⟨h'.rvb.trans h.rvb, h'.sur.trans h.sur, h'.bass.trans h.bass, h'.nr.trans h.nr⟩

/-- R235 for blocks: the whole, its first part, and the rest moved down. -/
theorem procBlock_split {f : BitVec 4} {a b : Nat} {s t t1 moved t2 : State} (ht : procBlock f (a + b) s = some t)
    (ht1 : procBlock f a s = some t1) (hmoved : MovedDown a b t1 t1 moved) (ht2 : procBlock f b moved = some t2) :
    SameHistory t t2 ∧ (∀ j, j < 2 * a → mixWord t j = mixWord t1 j) ∧
      ∀ j, j < 2 * b → mixWord t (2 * a + j) = mixWord t2 j := by
  obtain ⟨u, hu, htu⟩ := procBlock_sampleMajor le_rfl ht
  obtain ⟨u1, hu1, htu1⟩ := procBlock_sampleMajor (Nat.le_add_right a b) ht1
  obtain ⟨u2, hu2, htu2⟩ := procBlock_sampleMajor le_rfl ht2
  have hrest : forPairs b (fun i => pairThroughAll f (a + i)) u1 = some u := by
    rw [forPairs_add, hu1, Option.bind_some] at hu
    exact hu
  obtain ⟨v, hv, hend⟩ := (pairThroughAll_movedDown f a b t1).loop hrest (hmoved.of_agreeOnBlock htu1)
  obtain rfl : v = u2 := Option.some.inj (hv.symm.trans hu2)
  refine ⟨(htu.history.trans hend.history).trans htu2.symm.history, fun j hj => ?_, fun j hj => ?_⟩
  · rw [← htu.mix j (by omega), hend.below j hj]
  · rw [← htu.mix _ (by omega), ← hend.mix j hj, htu2.mix j hj]

/-- Settles O41: the three blocks complete within the bounds, and `procBlock_split` compares them. -/
theorem splitBlocksConcatenate : Obligations.SplitBlocksConcatenate := by
  intro s a b hbounds hab
  obtain ⟨t, ht⟩ := procBlock_completes s.flags (a + b) hbounds
  obtain ⟨t1, ht1⟩ := procBlock_completes s.flags a hbounds
  refine ⟨t, t1, (exec_proc_eq_next_iff hab s t).2 ht, (exec_proc_eq_next_iff (by omega) s t1).2 ht1,
    fun moved hrest hwords => ?_⟩
  have hmoved : MovedDown a b t1 t1 moved :=
    ⟨hrest, fun j hj => (hwords j hj).1, fun j hj => (hwords j hj).2, fun _ _ => rfl⟩
  have hbounds1 : t1.BoundsHold := procBlock_keeps (boundsHold_kept a) ht1 hbounds
  have hboundsMoved : moved.BoundsHold := by
    rw [hrest]
    exact { hbounds1 with }
  have hflags : moved.flags = s.flags := by
    rw [hrest]
    exact (procBlock_sameOutside ht1).flags
  obtain ⟨t2, ht2⟩ := procBlock_completes s.flags b hboundsMoved
  exact ⟨t2, (exec_proc_eq_next_iff (by omega) moved t2).2 (hflags ▸ ht2), procBlock_split ht ht1 hmoved ht2⟩

end Sys2Proof.Machine

/-! PROOF. `INIT 1` after a hard reset and a `SETCFG` (R271): `INIT 1` writes whole stages, so that what an earlier
`INIT` left in them does not matter, and on the stages of the hard reset `INIT 0` does what `INIT 1` does. -/

namespace Sys2Proof.Machine

/-! What `INIT 1` depends on of a stage: nothing where it is enabled, one register where it is not (R122 to R124). -/

theorem initRvbOn_reset (n a : Nat) (h h' : Reverb) : initRvbOn true n a h = initRvbOn true n a h' := rfl

theorem initSurOn_reset (n k : Nat) (h h' : Surround) : initSurOn true n k h = initSurOn true n k h' := rfl

theorem initBassOn_reset (m k : Nat) (h h' : Bass) : initBassOn true m k h = initBassOn true m k h' := rfl

theorem initRvbOff_reset {h h' : Reverb} (e : h.attn = h'.attn) : initRvbOff true h = initRvbOff true h' := by
  simp only [initRvbOff, clearRvb, e, if_true]

theorem initSurOff_reset {h h' : Surround} (e : h.mult = h'.mult) : initSurOff true h = initSurOff true h' := by
  simp only [initSurOff, clearSur, e, if_true]

theorem initBassOff_reset {h h' : Bass} (e : h.shift = h'.shift) : initBassOff true h = initBassOff true h' := by
  simp only [initBassOff, clearBass, e, if_true]

section
variable {s t : State}

theorem saneParams_congr (hp : SameParams s t) : saneRvbDelay t = saneRvbDelay s ∧
    saneBassRange t = saneBassRange s ∧ saneSurDelay t = saneSurDelay s ∧ saneBassDepth t = saneBassDepth s := by
  simp only [saneRvbDelay, saneBassRange, saneSurDelay, saneBassDepth, hp.rvbDelay, hp.bassRange, hp.surDelay,
    hp.bassDepth, and_self]

theorem rvbAfterInit_reset_congr (hc : SameConfiguration s t)
    (hattn : flagRvb s.flags = false → t.rvb.attn = s.rvb.attn) : rvbAfterInit true t = rvbAfterInit true s := by
  obtain ⟨hdelay, _⟩ := saneParams_congr hc.params
  cases hf : flagRvb s.flags with
  | true => rw [rvbAfterInit_on true hf, rvbAfterInit_on true (hc.flags ▸ hf), hdelay, hc.rate, hc.params.rvbDepth,
      initRvbOn_reset _ _ t.rvb s.rvb]
  | false => rw [rvbAfterInit_off true hf, rvbAfterInit_off true (hc.flags ▸ hf), initRvbOff_reset (hattn hf)]

theorem surAfterInit_reset_congr (hc : SameConfiguration s t)
    (hmult : flagSur s.flags = false → t.sur.mult = s.sur.mult) : surAfterInit true t = surAfterInit true s := by
  obtain ⟨_, _, hdelay, _⟩ := saneParams_congr hc.params
  cases hf : flagSur s.flags with
  | true => rw [surAfterInit_on true hf, surAfterInit_on true (hc.flags ▸ hf), hdelay, hc.rate, hc.params.surDepth,
      initSurOn_reset _ _ t.sur s.sur]
  | false => rw [surAfterInit_off true hf, surAfterInit_off true (hc.flags ▸ hf), initSurOff_reset (hmult hf)]

theorem bassAfterInit_reset_congr (hc : SameConfiguration s t)
    (hshift : flagBass s.flags = false → t.bass.shift = s.bass.shift) :
    bassAfterInit true t = bassAfterInit true s := by
  obtain ⟨_, hrange, _, hdepth⟩ := saneParams_congr hc.params
  cases hf : flagBass s.flags with
  | true => rw [bassAfterInit_on true hf, bassAfterInit_on true (hc.flags ▸ hf), hrange, hdepth, hc.rate,
      initBassOn_reset _ _ t.bass s.bass]
  | false => rw [bassAfterInit_off true hf, bassAfterInit_off true (hc.flags ▸ hf), initBassOff_reset (hshift hf)]

theorem initialise_sameConfiguration (reset : Bool) (hs : s.ParamsLegal) :
    SameConfiguration s (initialise reset s) where
  flags := by rw [initialise_eq]
  rate := by rw [initialise_eq]
  params := initialise_sameParams reset hs

/-- From legal parameters, `INIT 1` after any `INIT` does what it does without it. -/
theorem initialise_reset_initialise (reset : Bool) (hs : s.ParamsLegal) :
    initialise true (initialise reset s) = initialise true s := by
  have hc := initialise_sameConfiguration reset hs
  obtain ⟨hdelay, hrange, hsur, hdepth⟩ := saneParams_congr hc.params
  have er : rvbAfterInit true (initialise reset s) = rvbAfterInit true s :=
    rvbAfterInit_reset_congr hc fun off => by
      rw [initialise_eq]
      exact (rvbAfterInit_of_off reset off).1
  have es : surAfterInit true (initialise reset s) = surAfterInit true s :=
    surAfterInit_reset_congr hc fun off => by
      rw [initialise_eq]
      exact (surAfterInit_of_off reset off).1
  have eb : bassAfterInit true (initialise reset s) = bassAfterInit true s :=
    bassAfterInit_reset_congr hc fun off => by
      rw [initialise_eq]
      exact (bassAfterInit_of_off reset off).1
  have en : nrAfterInit true (initialise reset s) = nrAfterInit true s := rfl
  rw [initialise_eq true (initialise reset s), initialise_eq true s, er, es, eb, en, hdelay, hrange, hsur, hdepth,
    initialise_eq reset s]

end

/-! On the stages of the hard reset the trigger of a part makes no difference (R122 to R124, R270). -/

/-- R122: an attenuation other than 0 triggers the part. -/
theorem initRvbOn_false_of_reset (n a : Nat) :
    initRvbOn false n (a + 1) Reverb.reset = initRvbOn true n (a + 1) Reverb.reset := by
  rcases initRvbOn_cases false n (a + 1) Reverb.reset with ⟨_, e⟩ | ⟨hc, _⟩
  · exact e
  · exact absurd (.inr (.inr (Nat.succ_ne_zero a))) hc

/-- R123: the part is triggered, or the length is 0 and there is nothing to clear. -/
theorem initSurOn_false_of_reset (n k : Nat) :
    initSurOn false n k Surround.reset = initSurOn true n k Surround.reset := by
  rcases initSurOn_cases false n k Surround.reset with ⟨_, e⟩ | ⟨hc, e⟩
  · exact e
  · obtain rfl : n = 0 := by
      by_contra hn
      exact hc (.inr hn)
    exact e

/-- R124: the part is triggered, or the mask is 0 and there is nothing to clear. -/
theorem initBassOn_false_of_reset (m k : Nat) :
    initBassOn false m k Bass.reset = initBassOn true m k Bass.reset := by
  rcases initBassOn_cases false m k Bass.reset with ⟨_, e⟩ | ⟨hc, e⟩
  · exact e
  · obtain rfl : m = 0 := by
      by_contra hm
      exact hc (.inr hm)
    exact e

/-- R271: with the stages as the hard reset leaves them `INIT 0` and `INIT 1` do the same. -/
theorem initialise_false_of_reset {s : State} (hrvb : s.rvb = Reverb.reset) (hsur : s.sur = Surround.reset)
    (hbass : s.bass = Bass.reset) (hnr : s.nr = clearNr) : initialise false s = initialise true s := by
  have er : rvbAfterInit false s = rvbAfterInit true s := by
    unfold rvbAfterInit
    rw [hrvb, initRvbOn_false_of_reset]
    rfl
  have es : surAfterInit false s = surAfterInit true s := by
    unfold surAfterInit
    rw [hsur, initSurOn_false_of_reset]
    rfl
  have eb : bassAfterInit false s = bassAfterInit true s := by
    unfold bassAfterInit
    rw [hbass, initBassOn_false_of_reset]
    rfl
  have en : nrAfterInit false s = nrAfterInit true s := hnr
  rw [initialise_eq, initialise_eq, er, es, eb, en]

/-- Settles O59: after the hard reset the `INIT 0` in `SETCFG` does what `INIT 1` does, and `INIT 1` twice is once. -/
theorem initOneAfterResetAndSetcfgIsRedundant : Obligations.InitOneAfterResetAndSetcfgIsRedundant := by
  intro s flags _
  refine ⟨_, exec_setcfg flags (hardReset s), congrArg Host.Outcome.next ?_⟩
  have hlegal : ((hardReset s).setFlags (BitVec.ofNat 4 flags)).ParamsLegal := { reset_paramsLegal with }
  rw [initialise_false_of_reset rfl rfl rfl rfl]
  exact initialise_reset_initialise true hlegal

end Sys2Proof.Machine
